-- ==== Sys2Proof/Word.lean ====
section
/-! DEFINITION. The word types of IRCORE: bytes, 32-bit words and stored timestamps
(spec 00_scope.md section 6, 10_state.md section 2). -/

namespace Sys2Proof

/-- An 8-bit field: a NEC device or command byte, an RC6 control or information byte (00 R6). -/
abbrev Byte := BitVec 8

/-- A 32-bit register, counter or command word (10_state.md R38, 30_encoding.md R61). -/
abbrev Word := BitVec 32

/-- A stored edge sample: the low `TS_BITS` = 32 bits of a time in µs (10_state.md R19). -/
abbrev Timestamp := BitVec 32

/-- `EDGE_BUF_SLOTS` = 67, the physical size of the edge buffer (00_scope.md section 4). -/
abbrev edgeBufSlots : Nat := 67

end Sys2Proof
end

