-- ==== Sys2Proof/Syntax.lean ====
section
/-! DEFINITION. The command set of IRCORE: one constructor per row of spec/opcode_table.json
(30_encoding.md R62 to R65). The block has no other command (60 R159). -/

namespace Sys2Proof

/-- A command that HOST writes to CMD. -/
inductive Instr where
  /-- SETMODE, format S: MODE = word[1:0] (30_encoding.md R63). MODE 3 matches the row and is illegal. -/
  | setmode (mode : BitVec 2)
  /-- ENQNEC, format N: DEV = word[15:8], CMDB = word[7:0] (30_encoding.md R64). -/
  | enqnec (dev cmd : Byte)
  /-- ENQRC6, format R: MODE = word[18:16], CTRL = word[15:8], INFO = word[7:0] (30_encoding.md R65). -/
  | enqrc6 (mode : BitVec 3) (ctrl info : Byte)
deriving DecidableEq, Repr

end Sys2Proof
end

