-- ==== Sys2Proof/WellFormed.lean ====
section
/-! DEFINITION. Which commands are well formed: those whose word is legal (30_encoding.md R63 to R67). -/

namespace Sys2Proof

/-- SETMODE with MODE = 3 is the one operand value that its row's field admits and the spec calls
illegal (30_encoding.md R63, R67). Every operand of ENQNEC and ENQRC6 is legal (R64, R65). -/
def Instr.wellFormed : Instr → Bool
  | .setmode mode => mode != 3
  | .enqnec _ _ => true
  | .enqrc6 _ _ _ => true

end Sys2Proof
end

