-- ==== Sys2Proof/Decode.lean ====
section
/-! DEFINITION. The command decoder and the encoder (30_encoding.md R61 to R70), the byte lanes of a
register (20_memory.md R46), and the opcode table's masks. -/

namespace Sys2Proof

/-- Why a command word is illegal (30_encoding.md R67). -/
inductive IllegalWord where
  /-- OP is none of 1, 2, 3 (R62). -/
  | unknownOp
  /-- OP = 1 with any of bits 27:2 set (R63). -/
  | setmodeZeroField
  /-- OP = 1, bits 27:2 zero, MODE = 3 (R63). -/
  | setmodeModeThree
  /-- OP = 2 with any of bits 27:16 set (R64). -/
  | enqnecZeroField
  /-- OP = 3 with any of bits 27:19 set, a mode byte above 7 among them (R65). -/
  | enqrc6ZeroField
  /-- Not the four bytes of one word: a command has one length (R61). -/
  | wrongLength
deriving DecidableEq, Repr

/-- What the decoder answers: a command, or the reason the word is illegal. -/
inductive Decoded where
  | command (i : Instr)
  | illegal (why : IllegalWord)
deriving DecidableEq, Repr

/-- OP = word[31:28] (30_encoding.md R62). -/
def opField (w : Word) : BitVec 4 := w.extractLsb' 28 4

/-- `Decode(w)` of 30_encoding.md R66: every field is taken straight from its bits. -/
def decode (w : Word) : Decoded :=
  if opField w = 0x1#4 then
    if w.extractLsb' 2 26 ≠ 0 then .illegal .setmodeZeroField
    else if w.extractLsb' 0 2 = 3 then .illegal .setmodeModeThree
    else .command (.setmode (w.extractLsb' 0 2))
  else if opField w = 0x2#4 then
    if w.extractLsb' 16 12 ≠ 0 then .illegal .enqnecZeroField
    else .command (.enqnec (w.extractLsb' 8 8) (w.extractLsb' 0 8))
  else if opField w = 0x3#4 then
    if w.extractLsb' 19 9 ≠ 0 then .illegal .enqrc6ZeroField
    else .command (.enqrc6 (w.extractLsb' 16 3) (w.extractLsb' 8 8) (w.extractLsb' 0 8))
  else .illegal .unknownOp

/-- Byte lane `k` of a register holds its bits `8k+7 : 8k` (20_memory.md R46). -/
def byteLane (w : Word) (k : Nat) : Byte := w.extractLsb' (8 * k) 8

/-- The four bytes of a word, the lowest address first: little-endian (20_memory.md R46). -/
def wordBytes (w : Word) : List Byte := [byteLane w 0, byteLane w 1, byteLane w 2, byteLane w 3]

/-- The word whose byte lanes these are (20_memory.md R46). -/
def wordOfBytes (b0 b1 b2 b3 : Byte) : Word := b3 ++ b2 ++ b1 ++ b0

/-- The decoder on the bytes of a command as they lie in byte lanes: four, or no command (R61). -/
def decodeBytes : List Byte → Decoded
  | [b0, b1, b2, b3] => decode (wordOfBytes b0 b1 b2 b3)
  | _ => .illegal .wrongLength

/-- The command word of a command (30_encoding.md R63 to R65, R71). -/
def encode : Instr → Word
  | .setmode mode => 0x1#4 ++ 0#26 ++ mode
  | .enqnec dev cmd => 0x2#4 ++ 0#12 ++ dev ++ cmd
  | .enqrc6 mode ctrl info => 0x3#4 ++ 0#9 ++ mode ++ ctrl ++ info

/-- The command word as the bytes of its lanes. -/
def encodeBytes (i : Instr) : List Byte := wordBytes (encode i)

/-- The command decoder's answer where only legality matters. -/
def Decoded.toOption : Decoded → Option Instr
  | .command i => some i
  | .illegal _ => none

/-- The low `nbits` bits of `w` as one command word; the bits above are 0. -/
def wordOfBits (nbits w : Nat) : Word := BitVec.ofNat 32 (w % 2 ^ nbits)

/-- The instruction the decoder reads from the word whose bits, numbered as spec/opcode_table.json
numbers them, are `w`: its bytes laid out in their lanes, given to `decodeBytes`. -/
def decodeTableWord (nbits w : Nat) : Option Instr :=
  (decodeBytes (wordBytes (wordOfBits nbits w))).toOption

/-- One row of spec/opcode_table.json: a word belongs to it when `w &&& mask = pattern`. -/
structure OpcodeRow where
  mnemonic : String
  pattern : Word
  mask : Word
deriving DecidableEq, Repr

/-- spec/opcode_table.json. -/
def opcodeTable : List OpcodeRow :=
  [⟨"SETMODE", 0x10000000#32, 0xFFFFFFFC#32⟩,
   ⟨"ENQNEC", 0x20000000#32, 0xFFFF0000#32⟩,
   ⟨"ENQRC6", 0x30000000#32, 0xFFF80000#32⟩]

/-- The word matches the row's mask and pattern. -/
def OpcodeRow.covers (r : OpcodeRow) (w : Word) : Bool := w &&& r.mask == r.pattern

/-- The row of the table that a command belongs to. -/
def Instr.mnemonic : Instr → String
  | .setmode _ => "SETMODE"
  | .enqnec _ _ => "ENQNEC"
  | .enqrc6 _ _ _ => "ENQRC6"

end Sys2Proof
end

