-- ==== Sys2Proof/Config.lean ====
section
/-! DEFINITION. The parameters of spec 00_scope.md section 4 that the spec leaves OPEN or makes a
parameter. They are fixed for a run (70 R168) and the model takes them as one record, which State
carries and no step changes (log entry 3). The constants that the source fixes (00 R1) are no
parameters: they are definitions of the files under Machine/. -/

namespace Sys2Proof

/-- `RC6_ROUND_TIES`: how `rdiv` rounds an exact half unit (43_rc6_decode.md R101). -/
inductive TieRule where
  | up
  | even
deriving DecidableEq, Repr

/-- The configuration record of a run (00_scope.md section 4, 70 R168). -/
structure Config where
  /-- `NEC_IDLE_TIMEOUT_US`, OPEN, in µs (10_state.md R43). -/
  necIdleTimeoutUs : Nat
  /-- `RC6_IDLE_TIMEOUT_US`, OPEN, in µs (10_state.md R43). -/
  rc6IdleTimeoutUs : Nat
  /-- `TXQ_DEPTH`, OPEN (10_state.md R28). -/
  txqDepth : Nat
  /-- `RC6_ROUND_TIES` (43_rc6_decode.md R101). -/
  rc6RoundTies : TieRule
  /-- `MMIO_BASE`, OPEN (20_memory.md R44). -/
  mmioBase : Nat
  /-- `RX_PIN`, OPEN; no rule reads it (60 R161). -/
  rxPin : Nat
  /-- `TX_PIN`, OPEN; no rule reads it (60 R161). -/
  txPin : Nat
  /-- `TIMER_ID`, OPEN; no rule reads it (60 R161). -/
  timerId : Nat
  /-- `CARRIER_HZ`, OPEN; no rule reads it (60 R161). -/
  carrierHz : Nat
  /-- `POLL_INTERVAL`, in µs; no rule reads it (70 R180). -/
  pollIntervalUs : Nat
deriving DecidableEq, Repr

/-- The bounds that 00_scope.md section 4 sets for the OPEN parameters. -/
abbrev Config.Valid (c : Config) : Prop :=
  (0 < c.necIdleTimeoutUs ∧ c.necIdleTimeoutUs < 2 ^ 32) ∧
  (0 < c.rc6IdleTimeoutUs ∧ c.rc6IdleTimeoutUs < 2 ^ 32) ∧
  (1 ≤ c.txqDepth ∧ c.txqDepth ≤ 255) ∧
  c.mmioBase % 256 = 0

/-- DESIGN CHOICE (log entry 3): the parameters `State.reset` carries. The first four are those of
the spec's own vectors (95_test_vectors.md, conventions); the rest, which no vector gives, are 0. -/
def Config.nominal : Config where
  necIdleTimeoutUs := 80000
  rc6IdleTimeoutUs := 30000
  txqDepth := 4
  rc6RoundTies := .up
  mmioBase := 0
  rxPin := 0
  txPin := 0
  timerId := 0
  carrierHz := 0
  pollIntervalUs := 0

end Sys2Proof
end

