-- ==== Sys2Proof/Machine/State.lean ====
section
/-! DEFINITION. The state of IRCORE (10_state.md R17 to R41) as plain data, grouped as the spec groups
it: the receive side (section 2.1), the transmit side (2.2), the host interface (2.3), the output
ports (R41). Beside it stand the inputs of the step relation (R17), the model's own fields: the
configuration record, the schedule of agent steps, the HOST's program and the answers of the bus. -/

namespace Sys2Proof.Machine

/-- `rx_mode`, the closed variant Idle, NEC, RC6 (10_state.md R18). -/
inductive ReceiveMode where
  | idle
  | nec
  | rc6
deriving DecidableEq, Repr

/-- `disp_state`, the dispatcher state (10_state.md R29). -/
inductive DispState where
  | ready
  | busy
  | dead
deriving DecidableEq, Repr

/-- A DecodedMessage (00_scope.md section 7). -/
inductive Message where
  | nec (deviceId command : Byte)
  | rc6 (mode control information : Byte)
deriving DecidableEq, Repr

/-- The four decode failures (60 R144). -/
inductive DecodeFailure where
  | protocolMismatch
  | malformedSymbol
  | checksumFailure
  | unsupportedMode
deriving DecidableEq, Repr

/-- What a decode function returns: `ok(msg)` or `fail E` (60 R146). -/
inductive DecodeResult where
  | ok (msg : Message)
  | fail (e : DecodeFailure)
deriving DecidableEq, Repr

/-- An entry of `log_out`, a pair (kind, code) (10_state.md R41, 41 R85, 45 R134). -/
inductive LogEntry where
  | decode (e : DecodeFailure)
  | queueDispatchFailure (w : Word)
deriving DecidableEq, Repr

/-- A pulse train: durations in TICK = 0.5 µs units, marks at even positions (44_encoders.md R115). -/
abbrev PulseTrain := List Nat

/-- The trigger outcome, the draw of a DISPATCH step (45 R133, R134). -/
inductive Trigger where
  | ok
  | fail
deriving DecidableEq, Repr

/-- The direction of a HOST access (20_memory.md R49). -/
inductive Direction where
  | read
  | write
deriving DecidableEq, Repr

/-- A HOST access of the register window: `MemRead(addr, n)` or `MemWrite(addr, n, v)` (20 R50, R51). -/
inductive HostAccess where
  | read (addr n : Nat)
  | write (addr n : Nat) (v : Word)
deriving DecidableEq, Repr

/-- What the bus answers HOST for one access (20 R50, R51, 60 R149). -/
inductive HostReply where
  | value (v : Word)
  | done
  | busError (addr n : Nat) (dir : Direction)
deriving DecidableEq, Repr

/-- One entry of the schedule: which agent takes a step, with the operand the environment gives that
step (00_scope.md R2, R4; 30_encoding.md R73). -/
inductive Event where
  /-- HOST performs the next access of its program (20 R50, R51). -/
  | host
  /-- RXENV delivers an edge at time `t` µs (41 R78). -/
  | edge (t : Nat)
  /-- RXTIMER fires (41 R80). -/
  | idleFire
  /-- DISPATCHER dispatches with the trigger outcome `o` (45 R133). -/
  | dispatch (o : Trigger)
  /-- PULSEGEN signals completion (45 R135). -/
  | playDone
  /-- The RESET input (70 R164). -/
  | reset
deriving DecidableEq, Repr

/-- The receive side (10_state.md section 2.1, R18 to R27). -/
structure Receiver where
  /-- `rx_mode` (R18). -/
  rxMode : ReceiveMode
  /-- `edge_buf` (R19). -/
  edgeBuf : Vector Timestamp edgeBufSlots
  /-- `rx_index` (R20). -/
  rxIndex : Nat
  /-- `frame_active` (R21). -/
  frameActive : Bool
  /-- `deadline`, µs (R22). -/
  deadline : Nat
  /-- `clk_us`, µs (R23). -/
  clkUs : Nat
  /-- `rx_result` (R24). -/
  rxResult : BitVec 4
  /-- `rx_msg` (R25). -/
  rxMsg : Word
  /-- `rx_msg_count` (R26). -/
  rxMsgCount : Word
  /-- `rx_fail_count` (R27). -/
  rxFailCount : Word
deriving DecidableEq, Repr

/-- The transmit side (10_state.md section 2.2, R28 to R35). -/
structure Transmitter where
  /-- `txq`, each request stored as its command word (R28, 45 R132). -/
  txq : List Word
  /-- `disp_state` (R29). -/
  dispState : DispState
  /-- `toggle` (R30). -/
  toggle : Bool
  /-- `pulse_train` (R31). -/
  pulseTrain : PulseTrain
  /-- `tx_cur` (R32). -/
  txCur : Word
  /-- `tx_enq_count` (R33). -/
  txEnqCount : Word
  /-- `tx_pop_count` (R34). -/
  txPopCount : Word
  /-- `tx_done_count` (R35). -/
  txDoneCount : Word
deriving DecidableEq, Repr

/-- The host interface (10_state.md section 2.3, R36, R37). -/
structure CommandStatus where
  /-- `cmd_illegal` (R36). -/
  cmdIllegal : Bool
  /-- `illegal_count` (R37). -/
  illegalCount : Word
deriving DecidableEq, Repr

/-- The output ports, append-only logs that RESET does not clear (10_state.md R41). -/
structure Ports where
  /-- `rx_out`: one message per successful decode. -/
  rxOut : List Message
  /-- `tx_out`: the trains whose playback completed. -/
  txOut : List PulseTrain
  /-- `log_out`: the logged errors. -/
  logOut : List LogEntry
deriving DecidableEq, Repr

/-- The model's own record of the outside world (log entries 1, 2 and 8): what the agents will do,
and what the bus has answered. It is input and output of the block, not state of the block (R17). -/
structure Environment where
  /-- The remaining schedule: which agent steps next (00 R3). -/
  sched : List Event
  /-- The accesses HOST has still to perform, in program order (20 R54). -/
  host : List HostAccess
  /-- The answers HOST got, oldest first. -/
  replies : List HostReply
deriving DecidableEq, Repr

/-- The state of IRCORE and of the inputs of its step relation (10_state.md R17). -/
structure State where
  /-- The parameters of the run, which no step changes (70 R168). -/
  cfg : Config
  /-- R18 to R27. -/
  rx : Receiver
  /-- R28 to R35. -/
  tx : Transmitter
  /-- R36, R37. -/
  cmd : CommandStatus
  /-- R41. -/
  ports : Ports
  /-- The model's own: inputs and bus answers. -/
  env : Environment
deriving DecidableEq, Repr

/-- Why the machine stops with a fault: never. Every error of 60 R144 is an outcome that the block
records and goes on from, and a BusError is the answer to a HOST access (60 R145, R148, R149, R155),
so the type has no constructor and nobody raises one. Safe (log entry 15). -/
inductive Fault where
deriving DecidableEq, Repr

/-- Why an instruction has no meaning. -/
inductive Refusal where
  /-- Raised by no arm of `exec`: every row of the opcode table has its meaning. The constructor is
  the interface's word for an arm that has none yet. Safe: a refused instruction proves nothing. -/
  | notModelled (mnemonic : String)
deriving DecidableEq, Repr

/-- What a command's meaning answers. -/
abbrev Result := Host.Outcome State Fault Refusal

/-- The receive side at power-on (70 R164, R167): `clk_us` and the buffer's content are OPEN there. -/
def Receiver.powerOn (clk : Nat) (buf : Vector Timestamp edgeBufSlots) : Receiver where
  rxMode := .idle
  edgeBuf := buf
  rxIndex := 0
  frameActive := false
  deadline := 0
  clkUs := clk
  rxResult := 0
  rxMsg := 0
  rxMsgCount := 0
  rxFailCount := 0

/-- The transmit side at power-on and after RESET (70 R164, R167). -/
def Transmitter.powerOn : Transmitter where
  txq := []
  dispState := .ready
  toggle := false
  pulseTrain := []
  txCur := 0
  txEnqCount := 0
  txPopCount := 0
  txDoneCount := 0

/-- The host interface at power-on and after RESET (70 R164, R167). -/
def CommandStatus.powerOn : CommandStatus where
  cmdIllegal := false
  illegalCount := 0

/-- The state at power-on for given parameters, start time and buffer content, with an environment
that is yet to be said (70 R167). -/
def State.powerOn (cfg : Config) (clk : Nat) (buf : Vector Timestamp edgeBufSlots)
    (env : Environment) : State where
  cfg := cfg
  rx := Receiver.powerOn clk buf
  tx := Transmitter.powerOn
  cmd := CommandStatus.powerOn
  ports := { rxOut := [], txOut := [], logOut := [] }
  env := env

/-- The machine right after reset: the power-on state (70 R164, R167) with nothing placed in the
environment. DESIGN CHOICE where the spec is OPEN: the parameters (log entry 3), `clk_us` = 0 (log
entry 4), an all-zero buffer (log entry 5). -/
def State.reset : State :=
  State.powerOn Config.nominal 0 (Vector.replicate edgeBufSlots 0)
    { sched := [], host := [], replies := [] }

end Sys2Proof.Machine
end

