-- ==== Sys2Proof/Machine/Ops.lean ====
section
/-! DEFINITION. The constants the source fixes, the mode functions `cap` and `timeout`, the named
operations over the state's parts, and the ONE operation by which an error is recorded
(`State.raise`, 60 R144), with RESET, the only way out of the one sticky error, beside it (70 R164).
IRCORE has no trap entry and no trap return (60 R155, R156): no error transfers control. -/

namespace Sys2Proof.Machine

/-! ### Constants (00_scope.md section 4, R1) -/

/-- `NEC_CAPACITY` (00_scope.md section 4). -/
def necCapacity : Nat := 67

/-- `RC6_CAPACITY` (00_scope.md section 4, 90_conflicts.md C2). -/
def rc6Capacity : Nat := 28

/-- `PT_SLOTS`, the size of the pulse-train buffer (00_scope.md section 4). -/
def ptSlots : Nat := 67

/-- `T_US`, the RC6 base time unit in µs (00 R1). -/
def rc6UnitUs : Nat := 444

/-- The capacity function (10_state.md R42). -/
def cap : ReceiveMode → Nat
  | .idle => 0
  | .nec => necCapacity
  | .rc6 => rc6Capacity

/-- The timeout function (10_state.md R43). `timeout(0)` is never used: no edge is recorded in Idle
mode, so the 0 that stands here is read by no step (log entry 11). -/
def timeout (cfg : Config) : ReceiveMode → Nat
  | .idle => 0
  | .nec => cfg.necIdleTimeoutUs
  | .rc6 => cfg.rc6IdleTimeoutUs

/-! ### The receive side -/

/-- The stored sample of a time: `t mod 2^32` (41 R82). -/
def sample (t : Nat) : Timestamp := BitVec.ofNat 32 t

/-- The model time moves to `t` (10_state.md R23). -/
def Receiver.atTime (r : Receiver) (t : Nat) : Receiver := { r with clkUs := t }

/-- The buffer's index back to 0 and the idle timer disarmed; the entries stay (41 R74, R80, R88). -/
def Receiver.disarm (r : Receiver) : Receiver := { r with rxIndex := 0, frameActive := false }

/-- The binding of mode `m` (41 R76). -/
def Receiver.bindMode (r : Receiver) (m : ReceiveMode) : Receiver := { r with rxMode := m }

/-- The one-shot idle timer armed to fire at `d` (41 R78). -/
def Receiver.armTimer (r : Receiver) (d : Nat) : Receiver :=
  { r with frameActive := true, deadline := d }

/-- A sample of time `t` appended to the buffer (41 R78). -/
def Receiver.store (r : Receiver) (t : Nat) : Receiver :=
  { r with
    edgeBuf := r.edgeBuf.setIfInBounds r.rxIndex (sample t)
    rxIndex := r.rxIndex + 1 }

/-- The frozen snapshot `S`: the first `rx_index` entries in capture order (41 R81). -/
def Receiver.snapshot (r : Receiver) : List Timestamp := r.edgeBuf.toList.take r.rxIndex

/-- `MsgWord`, the layout of RX_MSG (41 R86): type, six zero bits, mode, then the two fields. -/
def msgWord : Message → Word
  | .nec deviceId command => 1#2 ++ 0#6 ++ 0#8 ++ deviceId ++ command
  | .rc6 mode control information => 2#2 ++ 0#6 ++ mode ++ control ++ information

/-- The `rx_result` code of a decoded message (10_state.md R24). -/
def Message.code : Message → BitVec 4
  | .nec _ _ => 1
  | .rc6 _ _ _ => 2

/-- The `rx_result` code of a decode failure (10_state.md R24, 60 R144). -/
def DecodeFailure.code : DecodeFailure → BitVec 4
  | .protocolMismatch => 3
  | .malformedSymbol => 4
  | .checksumFailure => 5
  | .unsupportedMode => 6

/-- Delivery of a decoded message: `rx_msg`, `rx_msg_count`, `rx_result` and `rx_out` (41 R84). -/
def State.deliver (msg : Message) (s : State) : State :=
  { s with
    rx := { s.rx with
      rxMsg := msgWord msg
      rxMsgCount := s.rx.rxMsgCount + 1
      rxResult := msg.code }
    ports := { s.ports with rxOut := s.ports.rxOut ++ [msg] } }

/-! ### The transmit side -/

/-- A request word accepted into the FIFO (45 R129). -/
def Transmitter.enqueue (t : Transmitter) (w : Word) : Transmitter :=
  { t with txq := t.txq ++ [w], txEnqCount := t.txEnqCount + 1 }

/-- The head `w` removed, `rest` left; `flip` says whether the encode uses the toggle bit (45 R133). -/
def Transmitter.pop (t : Transmitter) (w : Word) (rest : List Word) (flip : Bool) : Transmitter :=
  { t with
    txq := rest
    txPopCount := t.txPopCount + 1
    txCur := w
    toggle := if flip then !t.toggle else t.toggle }

/-- The hardware playback of `p` triggered (45 R133). -/
def Transmitter.start (t : Transmitter) (p : PulseTrain) : Transmitter :=
  { t with pulseTrain := p, dispState := .busy }

/-- The playback over: the train is cleared and the loop awaits its next request (45 R135). -/
def Transmitter.finish (t : Transmitter) : Transmitter :=
  { t with
    pulseTrain := []
    txDoneCount := t.txDoneCount + 1
    txCur := 0
    dispState := .ready }

/-! ### The bus -/

/-- HOST's current access is over, with the answer `reply` (20 R50, R51, 60 R149). -/
def State.answer (reply : HostReply) (s : State) : State :=
  { s with env := { s.env with host := s.env.host.tail, replies := s.env.replies ++ [reply] } }

/-- What every legal CMD write does besides its own effect: `cmd_illegal <- 0` (30 R68). -/
def State.legalCommand (s : State) : State := { s with cmd := { s.cmd with cmdIllegal := false } }

/-- The current schedule entry is used up; `rest` remains. -/
def State.afterEvent (rest : List Event) (s : State) : State :=
  { s with env := { s.env with sched := rest } }

/-- HOST's program grows by `more`: what the world outside may do between two steps. -/
def State.hostAppends (more : List HostAccess) (s : State) : State :=
  { s with env := { s.env with host := s.env.host ++ more } }

/-- The write of `w` to CMD as HOST's next access, and HOST as the next agent to step. -/
def State.presentWord (w : Word) (s : State) : State :=
  { s with env := { s.env with
      sched := .host :: s.env.sched
      host := .write s.cfg.mmioBase 4 w :: s.env.host } }

/-! ### Errors and RESET -/

/-- The complete list of error kinds (60 R144). -/
inductive ErrorKind where
  | decode (e : DecodeFailure)
  | queueDispatchFailure (w : Word)
  | illegalCommand
  | busError (addr n : Nat) (dir : Direction)
deriving DecidableEq, Repr

/-- What an error records, the last column of the table of 60 R144: a decode failure 41 R85, a failed
trigger 45 R134, an illegal command 30 R68, a BusError nothing in the block, only the answer to HOST
(60 R149). -/
def State.raise (k : ErrorKind) (s : State) : State :=
  match k with
  | .decode e =>
    { s with
      rx := { s.rx with rxResult := e.code, rxFailCount := s.rx.rxFailCount + 1 }
      ports := { s.ports with logOut := s.ports.logOut ++ [.decode e] } }
  | .queueDispatchFailure w =>
    { s with
      tx := { s.tx with dispState := .dead }
      ports := { s.ports with logOut := s.ports.logOut ++ [.queueDispatchFailure w] } }
  | .illegalCommand =>
    { s with cmd := { s.cmd with cmdIllegal := true, illegalCount := s.cmd.illegalCount + 1 } }
  | .busError addr n dir => s.answer (.busError addr n dir)

/-- RESET (70 R164, R165): every element to its reset value but for `edge_buf`, `clk_us` and the
ports. A frame or a playback in progress is abandoned. HOST's program, the schedule, the answers and
the parameters are outside the block and stay (log entry 12). -/
def State.applyReset (s : State) : State :=
  { s with
    rx := Receiver.powerOn s.rx.clkUs s.rx.edgeBuf
    tx := Transmitter.powerOn
    cmd := CommandStatus.powerOn }

end Sys2Proof.Machine
end

