-- ==== Sys2Proof/Machine/Operands.lean ====
section
/-! DEFINITION. The operand forms: SETMODE's MODE, the fields of a stored request word (45 R132), bits
MSB-first (00 R7), and a request's tag (45 R138, R139, R142). -/

namespace Sys2Proof.Machine

/-- MODE as a ReceiveMode (30 R63); MODE = 3 is none of the three. -/
def ReceiveMode.ofBits (m : BitVec 2) : Option ReceiveMode :=
  if m = 0 then some .idle else if m = 1 then some .nec else if m = 2 then some .rc6 else none

/-- The encoding of `rx_mode` (10_state.md R18). -/
def ReceiveMode.bits : ReceiveMode → BitVec 2
  | .idle => 0
  | .nec => 1
  | .rc6 => 2

/-- A request is an NECSend when `w[31:28] = 2`; any other is an RC6Send (45 R132, R133). -/
def isNecRequest (w : Word) : Bool := opField w == 0x2#4

/-- DEV or CTRL, `w[15:8]` (45 R129, R130). -/
def requestHigh (w : Word) : Byte := w.extractLsb' 8 8

/-- CMDB or INFO, `w[7:0]` (45 R129, R130). -/
def requestLow (w : Word) : Byte := w.extractLsb' 0 8

/-- The RC6 MODE, `w[18:16]` (45 R130). -/
def requestMode (w : Word) : BitVec 3 := w.extractLsb' 16 3

/-- The word is one that ENQNEC or ENQRC6 enqueues (45 R132). -/
def isRequestWord (w : Word) : Bool :=
  match decode w with
  | .command (.enqnec _ _) => true
  | .command (.enqrc6 _ _ _) => true
  | _ => false

/-- The bits of a field, MSB-first (00 R7). -/
def msbBits {n : Nat} (v : BitVec n) : List Bool := (List.range n).map fun j => v.getLsbD (n - 1 - j)

/-- The number whose bits, MSB-first, these are (00 R7). -/
def msbValue (bs : List Bool) : Nat := bs.foldl (fun v b => 2 * v + b.toNat) 0

/-- The request with tag `k` has been counted by a counter that reads `v`: `(v - k) mod 2^32` lies in
1..2^31 (45 R138 for `tx_pop_count`, R139 for `tx_done_count`). -/
def tagPassed (k v : Word) : Bool := decide (1 ≤ (v - k).toNat) && decide ((v - k).toNat ≤ 2 ^ 31)

end Sys2Proof.Machine
end

