-- ==== Sys2Proof/Machine/NecDecode.lean ====
section
/-! DEFINITION. NECDecode, a pure function of the frozen snapshot (42_nec_decode.md R90 to R99). -/

namespace Sys2Proof.Machine

/-- `D(i) = (S[i] - S[i-1]) mod 2^32`, for `1 <= i < len(S)` (42 R90, 43 R100, 41 R82). Outside that
range the value is read by no rule, and the decoders' length checks keep it unread. -/
def dur (S : List Timestamp) (i : Nat) : Nat := (S.getD i 0 - S.getD (i - 1) 0).toNat

/-- The leader mark and space lie in their half-open bands (42 R92). -/
def necLeaderOk (S : List Timestamp) : Bool :=
  decide (8000 ≤ dur S 1) && decide (dur S 1 < 10000)
    && decide (3500 ≤ dur S 2) && decide (dur S 2 < 5500)

/-- The number of complete data pairs of a buffer of `n` edges (42 R93). -/
def necPairCount (n : Nat) : Nat := min 32 ((n - 3) / 2)

/-- The mark of data pair `k` lies in [250, 850) µs (42 R94). -/
def necMarkOk (S : List Timestamp) (k : Nat) : Bool :=
  decide (250 ≤ dur S (3 + 2 * k)) && decide (dur S (3 + 2 * k) < 850)

/-- The bit of data pair `k`: 1 iff its space is longer than 1100 µs (42 R95). -/
def necBit (S : List Timestamp) (k : Nat) : Bool := decide (1100 < dur S (4 + 2 * k))

/-- The bits of the `m` pairs from pair `k` on, shifted into `v` MSB-first; none at the first bad mark
(42 R94 to R96). -/
def necBits (S : List Timestamp) : (m k : Nat) → (v : Word) → Option Word
  | 0, _, v => some v
  | m + 1, k, v =>
    if necMarkOk S k then necBits S m (k + 1) ((v <<< 1) ||| (BitVec.ofBool (necBit S k)).setWidth 32)
    else none

/-- The fields of the 32 bits, their inverted checksums and the message (42 R96 to R98). -/
def necMessage (v : Word) : DecodeResult :=
  if v.extractLsb' 16 8 ≠ v.extractLsb' 24 8 ^^^ 0xFF#8 ∨ v.extractLsb' 0 8 ≠ v.extractLsb' 8 8 ^^^ 0xFF#8 then
    .fail .checksumFailure
  else .ok (.nec (v.extractLsb' 24 8) (v.extractLsb' 8 8))

/-- `NECDecode(S)` (42 R90 to R99): the first failing step decides. -/
def necDecode (S : List Timestamp) : DecodeResult :=
  if S.length < 3 then .fail .protocolMismatch
  else if necLeaderOk S = false then .fail .protocolMismatch
  else if necPairCount S.length < 32 then .fail .malformedSymbol
  else
    match necBits S 32 0 0 with
    | none => .fail .malformedSymbol
    | some v => necMessage v

end Sys2Proof.Machine
end

