-- ==== Sys2Proof/Machine/Rc6Decode.lean ====
section
/-! DEFINITION. RC6Decode, a pure function of the frozen snapshot (43_rc6_decode.md R100 to R114). It
is the exact inverse of the encoder, as 90_conflicts.md C1 resolves. -/

namespace Sys2Proof.Machine

/-- `rdiv(d)`: the number of units T = 444 µs nearest to `d`; the parameter decides a tie (43 R101). -/
def rdiv (ties : TieRule) (d : Nat) : Nat :=
  let q := d / rc6UnitUs
  let r := d % rc6UnitUs
  if 2 * r < rc6UnitUs then q
  else if rc6UnitUs < 2 * r then q + 1
  else match ties with
    | .up => q + 1
    | .even => q + q % 2

/-- The leader's open intervals (43 R103). -/
def rc6LeaderOk (S : List Timestamp) : Bool :=
  decide (5 * rc6UnitUs < dur S 1) && decide (dur S 1 < 7 * rc6UnitUs)
    && decide (1 * rc6UnitUs < dur S 2) && decide (dur S 2 < 3 * rc6UnitUs)

/-- `w(k)`: the half-symbol width in units of bit position `k` (43 R106, 44 R120). -/
def rc6Width (k : Nat) : Nat := if k < 4 then 2 else 1

/-- The bit state machine's variables (43 R105): `s`, `pw`, `i` and `B`. -/
structure Rc6Cursor where
  /-- `s`, the value of the last bit. -/
  level : Bool
  /-- `pw`, the width of the last bit's half-symbol. -/
  prevWidth : Nat
  /-- `i`, the index of the next duration to read. -/
  next : Nat
  /-- `B`, the decoded bit stream. -/
  bits : List Bool
deriving DecidableEq, Repr

/-- The variables after the start bit (43 R105). -/
def rc6Start : Rc6Cursor where
  level := true
  prevWidth := 1
  next := 4
  bits := []

/-- One bit of width `w` (43 R107); none is MalformedSymbol (43 R108, R109). -/
def rc6Bit (ties : TieRule) (S : List Timestamp) (w : Nat) (c : Rc6Cursor) : Option Rc6Cursor :=
  if S.length ≤ c.next then none
  else if rdiv ties (dur S c.next) = c.prevWidth + w then
    some { level := !c.level, prevWidth := w, next := c.next + 1, bits := c.bits ++ [!c.level] }
  else if rdiv ties (dur S c.next) = c.prevWidth then
    if S.length ≤ c.next + 1 then none
    else if rdiv ties (dur S (c.next + 1)) ≠ w then none
    else some { c with prevWidth := w, next := c.next + 2, bits := c.bits ++ [c.level] }
  else none

/-- The `m` bits from position `k` on, in order (43 R107). -/
def rc6Bits (ties : TieRule) (S : List Timestamp) : (m k : Nat) → Rc6Cursor → Option Rc6Cursor
  | 0, _, c => some c
  | m + 1, k, c => (rc6Bit ties S (rc6Width k) c).bind (rc6Bits ties S m (k + 1))

/-- The last half: the index after it, or none for a mark that is not 1 unit (43 R110). -/
def rc6LastHalf (ties : TieRule) (S : List Timestamp) (c : Rc6Cursor) : Option Nat :=
  if c.level = false ∧ c.next < S.length then
    if rdiv ties (dur S c.next) = 1 then some (c.next + 1) else none
  else some c.next

/-- The trailing gap from index `i` on classifies to 0, 6 or 7 units, 0 when absent (43 R111). -/
def rc6GapOk (ties : TieRule) (S : List Timestamp) (i : Nat) : Bool :=
  let g := if i < S.length then rdiv ties (dur S i) else 0
  g == 0 || g == 6 || g == 7

/-- The field of `len` bits from bit `start` of the stream on, MSB-first (43 R112). -/
def rc6Field (bits : List Bool) (start len : Nat) : Nat := msbValue ((bits.drop start).take len)

/-- The 20-bit stream as a message; a mode other than 0 is unsupported and the toggle is not returned
(43 R112 to R114). -/
def rc6Message (bits : List Bool) : DecodeResult :=
  if rc6Field bits 0 3 ≠ 0 then .fail .unsupportedMode
  else .ok (.rc6 0 (BitVec.ofNat 8 (rc6Field bits 4 8)) (BitVec.ofNat 8 (rc6Field bits 12 8)))

/-- `RC6Decode(S)` (43 R100 to R114): the first failing step decides. -/
def rc6Decode (ties : TieRule) (S : List Timestamp) : DecodeResult :=
  if S.length < 4 then .fail .protocolMismatch
  else if rc6LeaderOk S = false then .fail .protocolMismatch
  else if rdiv ties (dur S 3) ≠ 1 then .fail .protocolMismatch
  else
    match rc6Bits ties S 20 0 rc6Start with
    | none => .fail .malformedSymbol
    | some c =>
      match rc6LastHalf ties S c with
      | none => .fail .malformedSymbol
      | some i => if rc6GapOk ties S i then rc6Message c.bits else .fail .malformedSymbol

end Sys2Proof.Machine
end

