-- ==== Sys2Proof/Machine/EdgeCapture.lean ====
section
/-! DEFINITION. The edge-capture unit: SETMODE, EDGE(t) and IDLE_FIRE (41_edge_capture.md R74 to R89). -/

namespace Sys2Proof.Machine

/-! ### SETMODE -/

/-- Teardown of the previous binding, then the binding of `m` (41 R74 to R76): the frame in progress
is discarded with no decode and nothing is appended to a port. -/
def State.setReceiveMode (m : ReceiveMode) (s : State) : State :=
  { s.legalCommand with rx := s.rx.disarm.bindMode m }

/-- SETMODE (41 R74). MODE = 3 is the typed error IllegalCommand and performs none of it (30 R68, 41
R74); the decoder never yields it (log entry 9). -/
def execSetmode (mode : BitVec 2) (s : State) : Result :=
  match ReceiveMode.ofBits mode with
  | some m => .next (s.setReceiveMode m)
  | none => .next (s.raise .illegalCommand)

/-! ### EDGE(t) -/

/-- EDGE(t) is enabled iff time does not run backwards and no armed deadline is passed (41 R78, R89). -/
def Receiver.edgeEnabled (r : Receiver) (t : Nat) : Bool :=
  decide (r.clkUs ≤ t) && (!r.frameActive || decide (t ≤ r.deadline))

/-- An edge is recorded iff a mode is armed and the buffer has room; else it is ignored (41 R77) or
dropped (41 R79). -/
def Receiver.records (r : Receiver) : Bool :=
  decide (r.rxMode ≠ .idle) && decide (r.rxIndex < cap r.rxMode)

/-- EDGE(t) (41 R78): the first edge of a frame arms the one-shot timer, no later edge re-arms it. -/
def Receiver.edge (cfg : Config) (t : Nat) (r : Receiver) : Receiver :=
  if r.records then
    if r.rxIndex = 0 then ((r.atTime t).armTimer (t + timeout cfg r.rxMode)).store t
    else (r.atTime t).store t
  else r.atTime t

/-- The EDGE step: only the receive side is written (45 R143). -/
def State.takeEdge (t : Nat) (s : State) : State := { s with rx := s.rx.edge s.cfg t }

/-! ### IDLE_FIRE -/

/-- Decoder selection (41 R80, R83): NECDecode in mode 1, RC6Decode otherwise. -/
def Receiver.decodeFrame (cfg : Config) (r : Receiver) : DecodeResult :=
  if r.rxMode = .nec then necDecode r.snapshot else rc6Decode cfg.rc6RoundTies r.snapshot

/-- The recording of a decode's result (41 R84, R85). -/
def State.recordDecode (res : DecodeResult) (s : State) : State :=
  match res with
  | .ok msg => s.deliver msg
  | .fail e => s.raise (.decode e)

/-- IDLE_FIRE (41 R80): the time is the deadline, the snapshot is taken, the buffer is reset and the
timer disarmed, and the decode's result is recorded, all in one step. `rx_mode` stays. -/
def State.takeIdleFire (s : State) : State :=
  State.recordDecode (s.rx.decodeFrame s.cfg) { s with rx := (s.rx.atTime s.rx.deadline).disarm }

end Sys2Proof.Machine
end

