-- ==== Sys2Proof/Machine/Encoders.lean ====
section
/-! DEFINITION. NECEncode and RC6Encode, the trains they build, and what a receiver sees of a train
(44_encoders.md R115 to R127). -/

namespace Sys2Proof.Machine

/-! ### NEC -/

/-- One NEC bit: a mark of 562.5 µs and a space of 1687.5 µs (1) or 562.5 µs (0), in TICKs (44 R116). -/
def necBitTrain (b : Bool) : PulseTrain := [1125, if b then 3375 else 1125]

/-- One NEC byte, MSB-first (44 R116). -/
def necByteTrain (b : Byte) : PulseTrain := (msbBits b).flatMap necBitTrain

/-- `NECEncode(d, c)` (44 R116): leader, device, its complement, command, its complement, trailing mark. -/
def necEncode (d c : Byte) : PulseTrain :=
  [18000, 9000] ++ necByteTrain d ++ necByteTrain (d ^^^ 0xFF#8) ++ necByteTrain c
    ++ necByteTrain (c ^^^ 0xFF#8) ++ [1125]

/-! ### RC6 -/

/-- T = 444 µs in TICKs (44 R118). -/
def rc6UnitTicks : Nat := 888

/-- The encoder's variables (44 R119): the train so far, the last bit's value `s`, and the width `pw`
of its second half, still pending. -/
structure Rc6Pen where
  train : PulseTrain
  level : Bool
  pending : Nat
deriving DecidableEq, Repr

/-- The leader and the start bit's first half (44 R119). -/
def rc6PenStart : Rc6Pen where
  train := [6 * rc6UnitTicks, 2 * rc6UnitTicks, 1 * rc6UnitTicks]
  level := true
  pending := 1

/-- The 20 bits in order (44 R120). -/
def rc6BitStream (m : BitVec 3) (tg : Bool) (c i : Byte) : List Bool :=
  msbBits m ++ [tg] ++ msbBits c ++ msbBits i

/-- The widths of their halves, in T (44 R120). -/
def rc6Widths : List Nat := List.replicate 4 2 ++ List.replicate 16 1

/-- Emission of one bit `b` of width `w` (44 R121). -/
def rc6Emit (p : Rc6Pen) (b : Bool) (w : Nat) : Rc6Pen :=
  if b = p.level then
    { p with train := p.train ++ [p.pending * rc6UnitTicks, w * rc6UnitTicks], pending := w }
  else
    { train := p.train ++ [(p.pending + w) * rc6UnitTicks], level := b, pending := w }

/-- Emission of a list of bits with their widths (44 R120, R121). -/
def rc6EmitAll : Rc6Pen → List (Bool × Nat) → Rc6Pen
  | p, [] => p
  | p, (b, w) :: rest => rc6EmitAll (rc6Emit p b w) rest

/-- The trailing silence: 6T, merged with a pending space into 7T when the last bit is 1 (44 R122,
90_conflicts.md C5). -/
def rc6Finish (p : Rc6Pen) : PulseTrain :=
  if p.level then p.train ++ [(p.pending + 6) * rc6UnitTicks]
  else p.train ++ [p.pending * rc6UnitTicks, 6 * rc6UnitTicks]

/-- `RC6Encode(m, tg, c, i)` (44 R118 to R122). -/
def rc6Encode (m : BitVec 3) (tg : Bool) (c i : Byte) : PulseTrain :=
  rc6Finish (rc6EmitAll rc6PenStart ((rc6BitStream m tg c i).zip rc6Widths))

/-! ### Requests, line and edges -/

/-- The encoder that matches a request word, run on its fields with the toggle bit `tg` (45 R133). -/
def encodeRequest (w : Word) (tg : Bool) : PulseTrain :=
  if isNecRequest w then necEncode (requestHigh w) (requestLow w)
  else rc6Encode (requestMode w) tg (requestHigh w) (requestLow w)

/-- A train as the line's segments: carrier on (true) for even positions, off for odd ones, each with
its duration in TICKs (44 R115, R125). -/
def lineSegments (p : PulseTrain) : List (Bool × Nat) :=
  (List.range p.length).zipWith (fun j d => (j % 2 == 0, d)) p

/-- The boundaries of a train that started `t` TICKs before, in µs, half-µs sums rounded down (44 R126). -/
def edgesFrom (t : Nat) : PulseTrain → List Nat
  | [] => []
  | d :: rest => (t + d) / 2 :: edgesFrom (t + d) rest

/-- `Edges(P)`: every boundary of the train, the end of its last entry included, in µs (44 R126). -/
def edges (p : PulseTrain) : List Nat := 0 :: edgesFrom 0 p

/-- The transitions of the line: the end of a trailing space is none (44 R127). -/
def transitions (p : PulseTrain) : List Nat :=
  if p.length % 2 = 0 then (edges p).dropLast else edges p

/-- `Captured(P, cap)`: what the capture unit records of a train heard cleanly (44 R127). -/
def captured (p : PulseTrain) (capacity : Nat) : List Nat := (transitions p).take capacity

/-- The samples stored for a list of times (41 R82). -/
def samples (ts : List Nat) : List Timestamp := ts.map sample

end Sys2Proof.Machine
end

