-- ==== Sys2Proof/Machine/Transceiver.lean ====
section
/-! DEFINITION. The transmit FIFO and its single-flight dispatcher: ENQNEC, ENQRC6, DISPATCH(o) and
PLAY_DONE (45_transceiver_queue.md R129 to R143). -/

namespace Sys2Proof.Machine

/-! ### Enqueue -/

/-- The FIFO has room: `len(txq) < TXQ_DEPTH` (45 R129). -/
def State.hasRoom (s : State) : Bool := decide (s.tx.txq.length < s.cfg.txqDepth)

/-- A command that is not enabled: an ENQ word meeting a full FIFO. Other commands are never held (45 R131). -/
def commandHeld (i : Instr) (s : State) : Bool :=
  match i with
  | .setmode _ => false
  | .enqnec _ _ => !s.hasRoom
  | .enqrc6 _ _ _ => !s.hasRoom

/-- The request word accepted (45 R129, R130). -/
def State.acceptRequest (w : Word) (s : State) : State :=
  { s.legalCommand with tx := s.tx.enqueue w }

/-- The request accepted if there is room; else the command waits and nothing changes (45 R131, 93 I8). -/
def State.requestOrWait (w : Word) (s : State) : Result :=
  if s.hasRoom then .next (s.acceptRequest w) else .next s

/-- ENQNEC dev, cmd (45 R129, R131). -/
def execEnqnec (dev cmd : Byte) (s : State) : Result :=
  s.requestOrWait (encode (.enqnec dev cmd))

/-- ENQRC6 mode, ctrl, info (45 R130, R131). -/
def execEnqrc6 (mode : BitVec 3) (ctrl info : Byte) (s : State) : Result :=
  s.requestOrWait (encode (.enqrc6 mode ctrl info))

/-! ### DISPATCH -/

/-- DISPATCH is enabled iff READY and the FIFO is not empty (45 R133). -/
def Transmitter.dispatchEnabled (t : Transmitter) : Bool :=
  decide (t.dispState = .ready) && !t.txq.isEmpty

/-- The end of a DISPATCH step: the playback of `p` triggered, or TriggerFailure(w) (45 R133, R134). -/
def State.trigger (o : Trigger) (w : Word) (p : PulseTrain) (s : State) : State :=
  match o with
  | .ok => { s with tx := s.tx.start p }
  | .fail => s.raise (.queueDispatchFailure w)

/-- DISPATCH(o) (45 R133): the head is popped and counted, the matching encoder runs on the toggle bit
as it stands, an RC6 encode flips it (44 R124), and the trigger's outcome decides the rest. -/
def State.takeDispatch (o : Trigger) (s : State) : State :=
  match s.tx.txq with
  | [] => s
  | w :: rest =>
    State.trigger o w (encodeRequest w s.tx.toggle)
      { s with tx := s.tx.pop w rest (!isNecRequest w) }

/-! ### PLAY_DONE -/

/-- PLAY_DONE is enabled iff BUSY (45 R135). -/
def Transmitter.playDoneEnabled (t : Transmitter) : Bool := decide (t.dispState = .busy)

/-- PLAY_DONE (45 R135): the train goes to `tx_out` and the loop awaits its next request. -/
def State.takePlayDone (s : State) : State :=
  { s with
    tx := s.tx.finish
    ports := { s.ports with txOut := s.ports.txOut ++ [s.tx.pulseTrain] } }

end Sys2Proof.Machine
end

