-- ==== Sys2Proof/Machine/Dispatch.lean ====
section
/-! DEFINITION. The dispatch of a command to its meaning: one arm per row of spec/opcode_table.json. -/

namespace Sys2Proof.Machine

def exec (i : Instr) (s : State) : Host.Outcome State Fault Refusal :=
  match i with
  | .setmode mode => Sys2Proof.Machine.execSetmode mode s
  | .enqnec dev cmd => Sys2Proof.Machine.execEnqnec dev cmd s
  | .enqrc6 mode ctrl info => Sys2Proof.Machine.execEnqrc6 mode ctrl info s

end Sys2Proof.Machine
end

