-- ==== Sys2Proof/Machine/Flags.lean ====
section
/-! DEFINITION. STATUS, the block's only flags, and the fields it packs (10_state.md R38). -/

namespace Sys2Proof.Machine

/-- STATUS.TX_BUSY: 1 iff `disp_state = BUSY`. -/
def Transmitter.txBusy (t : Transmitter) : Bool := decide (t.dispState = .busy)

/-- STATUS.TX_DEAD: 1 iff `disp_state = DEAD`. -/
def Transmitter.txDead (t : Transmitter) : Bool := decide (t.dispState = .dead)

/-- STATUS as `MemRead` assembles it (10_state.md R38, 20_memory.md R50): a live view, no latching. -/
def State.status (s : State) : Word :=
  0#8 ++ BitVec.ofNat 8 s.tx.txq.length ++ 0#1 ++ BitVec.ofNat 7 s.rx.rxIndex ++ 0#1
    ++ BitVec.ofBool s.tx.toggle ++ BitVec.ofBool s.cmd.cmdIllegal ++ BitVec.ofBool s.tx.txDead
    ++ BitVec.ofBool s.tx.txBusy ++ BitVec.ofBool s.rx.frameActive ++ s.rx.rxMode.bits

end Sys2Proof.Machine
end

