-- ==== Sys2Proof/Machine/Window.lean ====
section
/-! DEFINITION. The register window: its map, the legality of an access and the value of a read
(20_memory.md R44 to R53). -/

namespace Sys2Proof.Machine

/-- The registers of the window (20_memory.md R45). -/
inductive Reg where
  | cmd
  | status
  | rxResult
  | rxMsg
  | rxMsgCount
  | rxFailCount
  | txEnqCount
  | txPopCount
  | txDoneCount
  | txCur
  | illegalCount
deriving DecidableEq, Repr

/-- The register's offset from `MMIO_BASE` (20_memory.md R45). -/
def Reg.offset : Reg → Nat
  | .cmd => 0x00
  | .status => 0x04
  | .rxResult => 0x08
  | .rxMsg => 0x0C
  | .rxMsgCount => 0x10
  | .rxFailCount => 0x14
  | .txEnqCount => 0x18
  | .txPopCount => 0x1C
  | .txDoneCount => 0x20
  | .txCur => 0x24
  | .illegalCount => 0x28

/-- The map, in the order of 20_memory.md R45. -/
def Reg.all : List Reg :=
  [.cmd, .status, .rxResult, .rxMsg, .rxMsgCount, .rxFailCount, .txEnqCount, .txPopCount,
   .txDoneCount, .txCur, .illegalCount]

/-- The register at an offset; every other offset is reserved or no multiple of 4 (20 R45, R48). -/
def Reg.ofOffset (o : Nat) : Option Reg := Reg.all.find? fun r => r.offset == o

/-- The register that an access of `n` bytes at `addr` names, if width, alignment and offset are
legal (20 R47, R48, R49). An address below `MMIO_BASE` is outside the window (log entry 7). -/
def windowTarget (cfg : Config) (addr n : Nat) : Option Reg :=
  if n = 4 ∧ cfg.mmioBase ≤ addr then Reg.ofOffset (addr - cfg.mmioBase) else none

/-- The value a read of the register returns; CMD is write-only (20 R45, R50; 10_state.md R38). -/
def State.readReg (s : State) : Reg → Option Word
  | .cmd => none
  | .status => some s.status
  | .rxResult => some (s.rx.rxResult.setWidth 32)
  | .rxMsg => some s.rx.rxMsg
  | .rxMsgCount => some s.rx.rxMsgCount
  | .rxFailCount => some s.rx.rxFailCount
  | .txEnqCount => some s.tx.txEnqCount
  | .txPopCount => some s.tx.txPopCount
  | .txDoneCount => some s.tx.txDoneCount
  | .txCur => some s.tx.txCur
  | .illegalCount => some s.cmd.illegalCount

/-- `MemRead(addr, n)`: the register's value, or none where the access is a BusError (20 R49, R50). -/
def State.memRead (s : State) (addr n : Nat) : Option Word :=
  (windowTarget s.cfg addr n).bind s.readReg

/-- A write is legal only to CMD (20 R49, R51). -/
def windowWritesCmd (cfg : Config) (addr n : Nat) : Bool :=
  decide (windowTarget cfg addr n = some .cmd)

/-- One HOST read: the value, or BusError; no effect on the block either way (20 R50, R52, 60 R149). -/
def State.hostRead (s : State) (addr n : Nat) : State :=
  match s.memRead addr n with
  | some v => s.answer (.value v)
  | none => s.raise (.busError addr n .read)

end Sys2Proof.Machine
end

