-- ==== Sys2Proof/Machine/HostPort.lean ====
section
/-! DEFINITION. The HOST agent's step: one access of the register window (20_memory.md R50, R51, R54;
30_encoding.md R66 to R68; 60_exceptions.md R148 to R150, R153). -/

namespace Sys2Proof.Machine

/-- A HOST access that would have to wait: a legal write of an ENQ word to CMD while the FIFO is full
(45 R131, 60 R150). -/
def State.accessHeld (s : State) : HostAccess → Bool
  | .read _ _ => false
  | .write addr n v =>
    windowWritesCmd s.cfg addr n &&
      match decode v with
      | .command i => commandHeld i s
      | .illegal _ => false

/-- HOST's step is enabled iff it has an access to make and that access is not held (20 R51, 45 R131). -/
def State.hostEnabled (s : State) : Bool :=
  match s.env.host with
  | [] => false
  | a :: _ => !s.accessHeld a

/-- A word written to CMD, the access answered: a command, or IllegalCommand (30 R66, R68, 60 R148). -/
def State.hostCommand (w : Word) (s : State) : Result :=
  match decode w with
  | .command i => exec i (s.answer .done)
  | .illegal _ => .next ((s.answer .done).raise .illegalCommand)

/-- One HOST write: BusError is checked first, and only a legal write is decoded (60 R153 item 1). -/
def State.hostWrite (s : State) (addr n : Nat) (v : Word) : Result :=
  if windowWritesCmd s.cfg addr n then s.hostCommand v
  else .next (s.raise (.busError addr n .write))

/-- HOST's next access, performed whole (20 R53). -/
def State.takeHost (s : State) : Result :=
  match s.env.host with
  | [] => .next s
  | .read addr n :: _ => .next (s.hostRead addr n)
  | .write addr n v :: _ => s.hostWrite addr n v

end Sys2Proof.Machine
end

