-- ==== Sys2Proof/Machine/Agents.lean ====
section
/-! DEFINITION. The agents and their steps (00_scope.md R2, R3; 60_exceptions.md R151, R154). -/

namespace Sys2Proof.Machine

/-- The agents of 00 R2, and the RESET input. -/
inductive Agent where
  | host
  | rxEnv
  | rxTimer
  | dispatcher
  | pulseGen
  | resetInput
deriving DecidableEq, Repr

/-- Whose step an event is (00 R2). -/
def Event.agent : Event → Agent
  | .host => .host
  | .edge _ => .rxEnv
  | .idleFire => .rxTimer
  | .dispatch _ => .dispatcher
  | .playDone => .pulseGen
  | .reset => .resetInput

/-- The enabling condition of an event (60 R151): HOST 45 R131, EDGE 41 R78, IDLE_FIRE 41 R80, DISPATCH
45 R133, PLAY_DONE 45 R135, RESET always (70 R164). -/
def Event.enabled (s : State) : Event → Bool
  | .host => s.hostEnabled
  | .edge t => s.rx.edgeEnabled t
  | .idleFire => s.rx.frameActive
  | .dispatch _ => s.tx.dispatchEnabled
  | .playDone => s.tx.playDoneEnabled
  | .reset => true

/-- An enabled event's atomic step (00 R3). -/
def Event.take (s : State) : Event → Result
  | .host => s.takeHost
  | .edge t => .next (s.takeEdge t)
  | .idleFire => .next s.takeIdleFire
  | .dispatch o => .next (s.takeDispatch o)
  | .playDone => .next s.takePlayDone
  | .reset => .next s.applyReset

/-- The step of an event: "a step that is not enabled does not happen" (00 R3), so nothing changes then. -/
def Event.step (s : State) (e : Event) : Result := if e.enabled s then e.take s else .next s

/-- One step of the machine: the next event of the schedule; with an empty schedule no agent acts and
nothing changes (00 R4: no rule bounds how long an agent waits; log entry 1). -/
def State.stepSchedule (s : State) : Result :=
  match s.env.sched with
  | [] => .next s
  | e :: rest => e.step (s.afterEvent rest)

end Sys2Proof.Machine
end

