-- ==== Sys2Proof/Machine/Step.lean ====
section
/-! DEFINITION. The machine's step and the placing of one command word for the next step to run. -/

namespace Sys2Proof.Machine

/-- One step of IRCORE under the schedule its state holds (00_scope.md R2, R3). -/
def step (s : State) : Host.Outcome State Fault Refusal := s.stepSchedule

/-- `s` with the word of `nbits` bits `w` as HOST's next write to CMD and HOST as the next agent to
step (log entry 10): IRCORE fetches no instruction (10 R16), a command runs in the HOST step that
writes it (20 R51). -/
def State.withFetchWord (s : State) (nbits w : Nat) : State := s.presentWord (wordOfBits nbits w)

end Sys2Proof.Machine
end

