-- ==== Sys2Proof/Machine/Assembler.lean ====
section
/-! DEFINITION. The spec's assembly syntax for command words and its pseudo-instructions
(30_encoding.md R71, R72), as syntax trees. -/

namespace Sys2Proof.Machine

/-- A line of the assembly syntax (30 R71) or a pseudo-instruction of one word (30 R72). The operands
are the numerals as written. -/
inductive AsmLine where
  | setmodeIdle
  | setmodeNec
  | setmodeRc6
  | enqnec (dev cmd : Nat)
  | enqrc6 (mode ctrl info : Nat)
  /-- CLOSE, for `SETMODE IDLE`. -/
  | close
  /-- `ENQRC6 ctrl, info`, for `ENQRC6 0, ctrl, info`. -/
  | enqrc6Mode0 (ctrl info : Nat)
deriving DecidableEq, Repr

/-- ENQNEC with its operands in range; out of range is refused, not truncated (30 R71). -/
def asmEnqnec (dev cmd : Nat) : Option Instr :=
  if dev < 256 ∧ cmd < 256 then some (.enqnec (BitVec.ofNat 8 dev) (BitVec.ofNat 8 cmd)) else none

/-- ENQRC6 with its operands in range; out of range is refused, not truncated (30 R71). -/
def asmEnqrc6 (mode ctrl info : Nat) : Option Instr :=
  if mode < 8 ∧ ctrl < 256 ∧ info < 256 then
    some (.enqrc6 (BitVec.ofNat 3 mode) (BitVec.ofNat 8 ctrl) (BitVec.ofNat 8 info))
  else none

/-- The command of a line (30 R71, R72). -/
def assemble : AsmLine → Option Instr
  | .setmodeIdle => some (.setmode 0)
  | .setmodeNec => some (.setmode 1)
  | .setmodeRc6 => some (.setmode 2)
  | .enqnec dev cmd => asmEnqnec dev cmd
  | .enqrc6 mode ctrl info => asmEnqrc6 mode ctrl info
  | .close => some (.setmode 0)
  | .enqrc6Mode0 ctrl info => asmEnqrc6 0 ctrl info

/-- `RD reg`: a MemRead of 4 bytes (30 R71). -/
def readAccess (cfg : Config) (r : Reg) : HostAccess := .read (cfg.mmioBase + r.offset) 4

/-- A command on its own line: `WR CMD, <its word>` (30 R71). -/
def commandAccess (cfg : Config) (i : Instr) : HostAccess :=
  .write (cfg.mmioBase + Reg.offset .cmd) 4 (encode i)

/-- SENDNEC or SENDRC6 (30 R72) around the ENQ command `i`, with `polls` rounds of its wait loop: RD
TX_ENQ_COUNT, the command, then RD TX_POP_COUNT. How often HOST polls depends on what it reads, by
`tagPassed`; that loop is host software (60 R157; log entry 14). -/
def sendAndPoll (cfg : Config) (i : Instr) (polls : Nat) : List HostAccess :=
  readAccess cfg .txEnqCount :: commandAccess cfg i :: List.replicate polls (readAccess cfg .txPopCount)

end Sys2Proof.Machine
end

