-- ==== Sys2Proof/Safety.lean ====
section
/-! DEFINITION. The terms in which claims speak of safe runs: the invariants of 10_state.md R39 and of
the register encodings, the true times of a frame's edges (41 R82), infinite runs of the interleaving
with an adaptive HOST, and weak fairness (00_scope.md R3 to R5). -/

namespace Sys2Proof.Machine

/-! ### The invariants -/

/-- The receive side's invariants: 10_state.md R39 items 1 to 4, R24 and 41 R86. -/
structure Receiver.Inv (r : Receiver) : Prop where
  /-- R39 item 1. -/
  index_le_cap : r.rxIndex ≤ cap r.rxMode
  /-- R39 item 2. -/
  active_iff_index_pos : r.frameActive = true ↔ 0 < r.rxIndex
  /-- R39 item 3. -/
  idle_empty : r.rxMode = .idle → r.rxIndex = 0 ∧ r.frameActive = false
  /-- R39 item 4. -/
  clk_le_deadline : r.frameActive = true → r.clkUs ≤ r.deadline
  /-- R24: the codes 7 to 15 are never held. -/
  result_code : r.rxResult ≤ 6#4
  /-- 41 R86: type 3 is never held. -/
  msg_type : r.rxMsg.extractLsb' 30 2 ≠ 3#2
  /-- 41 R86: bits 29:24 are 0. -/
  msg_zero_field : r.rxMsg.extractLsb' 24 6 = 0#6

/-- The transmit side's invariants: 10_state.md R39 items 5 to 8, R31, R32 and 45 R132. -/
structure Transmitter.Inv (cfg : Config) (t : Transmitter) : Prop where
  /-- R39 item 5. -/
  txq_le_depth : t.txq.length ≤ cfg.txqDepth
  /-- R39 item 6. -/
  busy_iff_train : t.dispState = .busy ↔ t.pulseTrain ≠ []
  /-- R39 item 6 and R32: `tx_cur` is 0 exactly while READY. -/
  ready_iff_cur_zero : t.dispState = .ready ↔ t.txCur = 0
  /-- R39 item 7. -/
  enq_pop : t.txEnqCount - t.txPopCount = BitVec.ofNat 32 t.txq.length
  /-- R39 item 8. -/
  pop_done : t.txPopCount - t.txDoneCount = if t.dispState = .ready then 0 else 1
  /-- 45 R132: what is queued is a request's command word. -/
  requests : ∀ w ∈ t.txq, isRequestWord w = true
  /-- R31: at most `PT_SLOTS` durations. -/
  train_length : t.pulseTrain.length ≤ ptSlots
  /-- R31, 44 R115: each duration is positive and fits 16 bits. -/
  train_entries : ∀ d ∈ t.pulseTrain, 0 < d ∧ d < 2 ^ 16

/-- What every reachable state satisfies (10_state.md R39, with the bounds of 00_scope.md section 4). -/
structure State.Inv (s : State) : Prop where
  cfg_valid : s.cfg.Valid
  rx_inv : s.rx.Inv
  tx_inv : s.tx.Inv s.cfg

/-- `ts` are the true times, in µs, of the edges the current frame holds (41 R78, R82): the samples are
their low 32 bits, they do not run backwards or past the model time, and the deadline is the first of
them plus the timeout of the mode. -/
structure Receiver.FrameTimes (cfg : Config) (r : Receiver) (ts : List Nat) : Prop where
  snapshot_eq : r.snapshot = samples ts
  length_eq : ts.length = r.rxIndex
  ordered : ts.Pairwise (· ≤ ·)
  le_clk : ∀ t ∈ ts, t ≤ r.clkUs
  deadline_eq : ∀ t ∈ ts.head?, r.deadline = t + timeout cfg r.rxMode

/-! ### Reading an RC6 bit stream -/

/-- The value of the bit before position `k`: the start bit, 1, before position 0 (43 R105). -/
def rc6Before (b : Nat → Bool) (k : Nat) : Bool := if k = 0 then true else b (k - 1)

/-- The half-symbol width of the bit before position `k`: the start bit's, 1, before position 0
(43 R105 to R107). -/
def rc6WidthBefore (k : Nat) : Nat := if k = 0 then 1 else rc6Width (k - 1)

/-- The unit counts `U` of the `n - 1` durations of a buffer can be read as the 20 bits `b`, the one at
position `k` beginning at duration `p k` (43 R105 to R109): a bit that differs from the one before it is one
merged duration, a bit equal to it is the half before it and its own first half. -/
structure Rc6Reading (U : Nat → Nat) (n : Nat) (b : Nat → Bool) (p : Nat → Nat) : Prop where
  start : p 0 = 4
  next : ∀ k < 20, p (k + 1) = p k + if b k = rc6Before b k then 2 else 1
  inside : ∀ k < 20, p (k + 1) ≤ n
  merged : ∀ k < 20, b k ≠ rc6Before b k → U (p k) = rc6WidthBefore k + rc6Width k
  apart : ∀ k < 20, b k = rc6Before b k → U (p k) = rc6WidthBefore k ∧ U (p k + 1) = rc6Width k

/-! ### Traces: what a run accepts, pops and completes -/

/-- The request words that the step of event `e` takes into the FIFO (45 R129, R130): the word written
to CMD, when HOST's next access is a legal write of an ENQ word that is not held. -/
def State.acceptedBy (s : State) (e : Event) : List Word :=
  match e, s.env.host with
  | .host, .write addr n v :: _ =>
    if windowWritesCmd s.cfg addr n && isRequestWord v && s.hasRoom then [v] else []
  | _, _ => []

/-- The request words that the next `n` steps take into the FIFO, in order. -/
def acceptedIn : Nat → State → List Word
  | 0, _ => []
  | n + 1, s =>
    match s.env.sched with
    | [] => []
    | e :: rest =>
      s.acceptedBy e ++
        match e.step (s.afterEvent rest) with
        | .next t => acceptedIn n t
        | _ => []

/-- `n` steps of the machine. -/
def runSteps : Nat → State → Result
  | 0, s => .next s
  | n + 1, s =>
    match step s with
    | .next t => runSteps n t
    | .fault f => .fault f
    | .refused r => .refused r

/-- The trains of request words dispatched in order from toggle value `tg` on (45 R137, 44 R124). -/
def encodeRequests : Bool → List Word → List PulseTrain
  | _, [] => []
  | tg, w :: rest =>
    encodeRequest w tg :: encodeRequests (if isNecRequest w then tg else !tg) rest

/-! ### Runs and fairness -/

/-- An infinite run of the interleaving semantics (00 R3): event `ev n` steps state `ρ n`, before which
the world may have given HOST more accesses (HOST may decide them from what it read). A step that is
not enabled changes nothing. -/
def IsRun (ρ : Nat → State) (ev : Nat → Event) : Prop :=
  ∀ n, ∃ more, (ev n).step ((ρ n).hostAppends more) = .next (ρ (n + 1))

/-- Some step of the agent is enabled. -/
def Agent.Enabled (a : Agent) (s : State) : Prop := ∃ e : Event, e.agent = a ∧ e.enabled s = true

/-- Weak fairness for an agent (00 R5): a step of it that stays enabled is eventually taken. -/
def WeaklyFair (a : Agent) (ρ : Nat → State) (ev : Nat → Event) : Prop :=
  ∀ n, (∀ m, n ≤ m → a.Enabled (ρ m)) → ∃ m, n ≤ m ∧ (ev m).agent = a ∧ (ev m).enabled (ρ m) = true

/-- No RESET happens in the run. -/
def NoReset (ev : Nat → Event) : Prop := ∀ n, ev n ≠ .reset

end Sys2Proof.Machine
end

