-- ==== Sys2Proof/Certificates/Slice0/Obligations.lean ====
section
/-! DEFINITION. The statements about IRCORE, drawn from the numbered rules of spec/. Each docstring names
the rules (file number and R<n>) it rests on. "The world's part" of a state is its `env` record: the
schedule, HOST's program and the answers of the bus. The form of that record, and that a step takes the
schedule's head, is the model's choice (log entries 1, 2, 8); what the step then does is the spec's. -/

open Sys2Proof Sys2Proof.Machine

/-! ### Command words -/

/-- Decode and encode agree (30 R63 to R66): a well-formed command's word, and its bytes in their lanes,
decode to that command, at every operand value. -/
def Obligations.DecodeOfEncodeIsTheCommand : Prop :=
  ∀ i : Instr, i.wellFormed = true →
    decode (encode i) = .command i ∧ decodeBytes (encodeBytes i) = .command i

/-- The other direction (30 R66, R69): a word that decodes to a command is that command's word. -/
def Obligations.CommandWordIsUnique : Prop :=
  ∀ (w : Word) (i : Instr), decode w = .command i → i.wellFormed = true ∧ encode i = w

/-- 30 R67: the illegal words are exactly those listed there, and each has the one effect of R68. -/
def Obligations.IllegalWordsExactly : Prop :=
  ∀ w : Word,
    ((∃ why, decode w = .illegal why) ↔
      (w.toNat / 2 ^ 28 ≠ 1 ∧ w.toNat / 2 ^ 28 ≠ 2 ∧ w.toNat / 2 ^ 28 ≠ 3) ∨
      (w.toNat / 2 ^ 28 = 1 ∧ (w.toNat / 2 ^ 2 % 2 ^ 26 ≠ 0 ∨ w.toNat % 2 ^ 2 = 3)) ∨
      (w.toNat / 2 ^ 28 = 2 ∧ w.toNat / 2 ^ 16 % 2 ^ 12 ≠ 0) ∨
      (w.toNat / 2 ^ 28 = 3 ∧ w.toNat / 2 ^ 19 % 2 ^ 9 ≠ 0)) ∧
    ∀ why, decode w = .illegal why →
      ∀ s : State, s.hostCommand w = .next ((s.answer .done).raise .illegalCommand)

/-- spec/opcode_table.json and the decoder agree: a command lies under its row's mask and match, a word
under a row decodes to a command of that row but for SETMODE with MODE = 3, and no word lies under two rows. -/
def Obligations.OpcodeTableAndDecoderAgree : Prop :=
  ∀ w : Word,
    (∀ i, decode w = .command i → ∃ r ∈ opcodeTable, r.mnemonic = i.mnemonic ∧ r.covers w = true) ∧
    (∀ r ∈ opcodeTable, r.covers w = true →
      (∃ i, decode w = .command i ∧ i.mnemonic = r.mnemonic) ∨ w = 0x10000003#32) ∧
    opcodeTable.Pairwise fun a b => ¬(a.covers w = true ∧ b.covers w = true)

/-- Words of 95_test_vectors.md section 2.1, written out there, decode as stated there. -/
def Obligations.SpecWordsDecode : Prop :=
  decode 0x10000000#32 = .command (.setmode 0) ∧
  decode 0x10000001#32 = .command (.setmode 1) ∧
  decode 0x10000002#32 = .command (.setmode 2) ∧
  decode 0x20000408#32 = .command (.enqnec 4 8) ∧
  decode 0x2000FFFF#32 = .command (.enqnec 255 255) ∧
  decode 0x30001234#32 = .command (.enqrc6 0 0x12 0x34) ∧
  decode 0x30075555#32 = .command (.enqrc6 7 0x55 0x55)

/-- 20 R46: byte lane k holds bits 8k+7 : 8k, and the four lanes make the word. -/
def Obligations.ByteLanesAreLittleEndian : Prop :=
  ∀ w : Word,
    (∀ k < 4, ∀ j < 8, (byteLane w k).getLsbD j = w.getLsbD (8 * k + j)) ∧
    wordOfBytes (byteLane w 0) (byteLane w 1) (byteLane w 2) (byteLane w 3) = w

/-- 30 R71: the assembler gives each line its word and refuses an operand out of range. -/
def Obligations.AssemblerGivesTheWordOrRefuses : Prop :=
  ((assemble .setmodeIdle).map encode = some 0x10000000#32 ∧
    (assemble .setmodeNec).map encode = some 0x10000001#32 ∧
    (assemble .setmodeRc6).map encode = some 0x10000002#32 ∧
    (assemble .close).map encode = some 0x10000000#32) ∧
  (∀ dev cmd : Nat, (assemble (.enqnec dev cmd)).map encode =
    if dev ≤ 255 ∧ cmd ≤ 255 then some (BitVec.ofNat 32 (0x20000000 + dev * 2 ^ 8 + cmd)) else none) ∧
  (∀ mode ctrl info : Nat, (assemble (.enqrc6 mode ctrl info)).map encode =
    if mode ≤ 7 ∧ ctrl ≤ 255 ∧ info ≤ 255 then
      some (BitVec.ofNat 32 (0x30000000 + mode * 2 ^ 16 + ctrl * 2 ^ 8 + info)) else none) ∧
  (∀ ctrl info : Nat, assemble (.enqrc6Mode0 ctrl info) = assemble (.enqrc6 0 ctrl info))

/-! ### The HOST step -/

/-- A step runs the decoded command (20 R51, 30 R66, 45 R131): with HOST to step and a write of a
command's word to CMD as its next access, the step uses up the schedule entry and, unless the command is
held by a full FIFO, answers the access and is `exec` of the command; a held command leaves all else. The
word that `withFetchWord` places is run so, the world's part then being as before but for the answer. -/
def Obligations.StepRunsTheDecodedCommand : Prop :=
  (∀ (s : State) (i : Instr) (w : Word) (rest : List Event) (more : List HostAccess),
    s.env.sched = .host :: rest → s.env.host = .write s.cfg.mmioBase 4 w :: more →
    decode w = .command i →
    step s = if commandHeld i s then .next (s.afterEvent rest)
      else exec i ((s.afterEvent rest).answer .done)) ∧
  (∀ (s : State) (i : Instr) (nbits w : Nat), decodeTableWord nbits w = some i →
    commandHeld i s = false →
    step (s.withFetchWord nbits w) =
      exec i { s with env := { s.env with replies := s.env.replies ++ [.done] } })

/-- 30 R68: an illegal word changes `cmd_illegal` and `illegal_count` and nothing else of the block, and
a legal CMD write that is not held sets `cmd_illegal` to 0 and leaves `illegal_count`. -/
def Obligations.IllegalWordSetsOnlyItsTwoFields : Prop :=
  ∀ (s : State) (w : Word) (rest : List Event) (more : List HostAccess),
    s.env.sched = .host :: rest → s.env.host = .write s.cfg.mmioBase 4 w :: more →
    (∀ why, decode w = .illegal why →
      step s = .next { (s.afterEvent rest).answer .done with
        cmd := { cmdIllegal := true, illegalCount := s.cmd.illegalCount + 1 } }) ∧
    (∀ i, decode w = .command i → commandHeld i s = false →
      ∃ t, step s = .next t ∧ t.cmd = { cmdIllegal := false, illegalCount := s.cmd.illegalCount })

/-- 20 R49: every access that rule lists is answered with a BusError and changes nothing of the block. -/
def Obligations.BusErrorHasNoEffect : Prop :=
  ∀ (s : State) (addr n : Nat) (v : Word) (rest : List Event) (more : List HostAccess),
    s.env.sched = .host :: rest →
    (s.env.host = .read addr n :: more →
      (n ≠ 4 ∨ addr < s.cfg.mmioBase ∨ (addr - s.cfg.mmioBase) % 4 ≠ 0 ∨
        0x28 < addr - s.cfg.mmioBase ∨ addr = s.cfg.mmioBase) →
      step s = .next ((s.afterEvent rest).answer (.busError addr n .read))) ∧
    (s.env.host = .write addr n v :: more →
      (n ≠ 4 ∨ addr < s.cfg.mmioBase ∨ (addr - s.cfg.mmioBase) % 4 ≠ 0 ∨
        0x28 < addr - s.cfg.mmioBase ∨ addr ≠ s.cfg.mmioBase) →
      step s = .next ((s.afterEvent rest).answer (.busError addr n .write)))

/-- 20 R45, R50, R52: a read of each readable register answers its value, changes nothing of the block,
and leaves every register to read as before. -/
def Obligations.ReadAnswersTheLiveValueAndChangesNothing : Prop :=
  ∀ (s : State) (o : Nat) (v : Word) (rest : List Event) (more : List HostAccess),
    (o, v) ∈ [(0x04, s.status), (0x08, s.rx.rxResult.setWidth 32), (0x0C, s.rx.rxMsg),
      (0x10, s.rx.rxMsgCount), (0x14, s.rx.rxFailCount), (0x18, s.tx.txEnqCount),
      (0x1C, s.tx.txPopCount), (0x20, s.tx.txDoneCount), (0x24, s.tx.txCur),
      (0x28, s.cmd.illegalCount)] →
    s.env.sched = .host :: rest → s.env.host = .read (s.cfg.mmioBase + o) 4 :: more →
    ∃ t, step s = .next t ∧ t = (s.afterEvent rest).answer (.value v) ∧
      t.rx = s.rx ∧ t.tx = s.tx ∧ t.cmd = s.cmd ∧ t.ports = s.ports ∧
      ∀ addr n, t.memRead addr n = s.memRead addr n

/-- 10 R38: each field of STATUS is a live view of its element, RXMODE with the codes 0 Idle, 1 NEC and
2 RC6, and the reserved bits read 0. -/
def Obligations.StatusFieldsAreLiveViews : Prop :=
  ∀ s : State, s.rx.rxIndex < 2 ^ 7 → s.tx.txq.length < 2 ^ 8 →
    s.status.extractLsb' 0 2 = (match s.rx.rxMode with | .idle => 0 | .nec => 1 | .rc6 => 2) ∧
    s.status.getLsbD 2 = s.rx.frameActive ∧
    (s.status.getLsbD 3 = true ↔ s.tx.dispState = .busy) ∧
    (s.status.getLsbD 4 = true ↔ s.tx.dispState = .dead) ∧
    s.status.getLsbD 5 = s.cmd.cmdIllegal ∧
    s.status.getLsbD 6 = s.tx.toggle ∧
    s.status.getLsbD 7 = false ∧
    (s.status.extractLsb' 8 7).toNat = s.rx.rxIndex ∧
    s.status.getLsbD 15 = false ∧
    (s.status.extractLsb' 16 8).toNat = s.tx.txq.length ∧
    s.status.extractLsb' 24 8 = 0

/-! ### SETMODE -/

/-- 41 R74, R75, 30 R68: SETMODE tears down, arms and clears `cmd_illegal`, and changes nothing else, in
every state, a frame in progress included; SETMODE IDLE in Idle changes nothing but `cmd_illegal`. -/
def Obligations.SetmodeTearsDownAndArms : Prop :=
  ∀ s : State,
    (∀ (m : BitVec 2) (mode : ReceiveMode), (m, mode) ∈ [(0, .idle), (1, .nec), (2, .rc6)] →
      exec (.setmode m) s = .next { s with
        rx := { s.rx with rxMode := mode, rxIndex := 0, frameActive := false }
        cmd := { s.cmd with cmdIllegal := false } }) ∧
    (s.Inv → s.rx.rxMode = .idle →
      exec (.setmode 0) s = .next { s with cmd := { s.cmd with cmdIllegal := false } })

/-- 30 R67, R68: a SETMODE with MODE = 3 performs nothing of SETMODE: its word is illegal, and `exec` of the
ill-formed command has an illegal word's effect (that `exec` has it too is the model's, log entry 9). -/
def Obligations.SetmodeThreeIsIllegal : Prop :=
  ∀ s : State, (∃ why, decode (encode (.setmode 3)) = .illegal why) ∧
    exec (.setmode 3) s = .next { s with
      cmd := { cmdIllegal := true, illegalCount := s.cmd.illegalCount + 1 } }

/-- 10 R18: `rx_mode` changes only by RESET or by a SETMODE word written to CMD. -/
def Obligations.ReceiveModeChangesOnlyBySetmodeOrReset : Prop :=
  ∀ s t : State, step s = .next t → t.rx.rxMode ≠ s.rx.rxMode →
    (∃ rest, s.env.sched = .reset :: rest) ∨
    (∃ rest w m more, s.env.sched = .host :: rest ∧
      s.env.host = .write s.cfg.mmioBase 4 w :: more ∧ decode w = .command (.setmode m))

/-- 41 R88: the buffer index is taken back only by IDLE_FIRE, by SETMODE and by RESET, and then to 0;
every other step leaves it or adds one. -/
def Obligations.BufferIndexIsResetInThreePlaces : Prop :=
  ∀ s t : State, step s = .next t →
    t.rx.rxIndex = s.rx.rxIndex ∨ t.rx.rxIndex = s.rx.rxIndex + 1 ∨
    (t.rx.rxIndex = 0 ∧ t.rx.frameActive = false ∧
      ((∃ rest, s.env.sched = .reset :: rest) ∨
       (∃ rest, s.env.sched = .idleFire :: rest ∧ s.rx.frameActive = true) ∨
       (∃ rest w m more, s.env.sched = .host :: rest ∧
          s.env.host = .write s.cfg.mmioBase 4 w :: more ∧ decode w = .command (.setmode m))))

/-! ### ENQNEC and ENQRC6 -/

/-- 45 R129: with room in the FIFO, ENQNEC appends its word, counts it, clears `cmd_illegal`, and changes
nothing else, in every dispatcher state and receive mode. -/
def Obligations.EnqnecAppendsItsWord : Prop :=
  ∀ (s : State) (dev cmd : Byte), s.tx.txq.length < s.cfg.txqDepth →
    exec (.enqnec dev cmd) s = .next { s with
      tx := { s.tx with
        txq := s.tx.txq ++ [BitVec.ofNat 32 (0x20000000 + dev.toNat * 2 ^ 8 + cmd.toNat)]
        txEnqCount := s.tx.txEnqCount + 1 }
      cmd := { s.cmd with cmdIllegal := false } }

/-- 45 R130: the same for ENQRC6, any MODE 0..7; the toggle bit is not read or changed. -/
def Obligations.Enqrc6AppendsItsWord : Prop :=
  ∀ (s : State) (mode : BitVec 3) (ctrl info : Byte), s.tx.txq.length < s.cfg.txqDepth →
    exec (.enqrc6 mode ctrl info) s = .next { s with
      tx := { s.tx with
        txq := s.tx.txq ++
          [BitVec.ofNat 32 (0x30000000 + mode.toNat * 2 ^ 16 + ctrl.toNat * 2 ^ 8 + info.toNat)]
        txEnqCount := s.tx.txEnqCount + 1 }
      cmd := { s.cmd with cmdIllegal := false } }

/-- 45 R131: on a full FIFO an ENQ command is held and changes nothing of the block; once a DISPATCH has
removed the head it takes effect whole; no read, SETMODE or illegal word is ever held. The form of the wait
is the model's choice (log entry 2): the held write stays HOST's next access while its schedule entry goes,
and `exec` of a held command answers the state unchanged. -/
def Obligations.EnqOnAFullFifoWaits : Prop :=
  ∀ (s : State) (i : Instr), (∃ dev cmd, i = .enqnec dev cmd) ∨ (∃ m c f, i = .enqrc6 m c f) →
    s.tx.txq.length = s.cfg.txqDepth →
    exec i s = .next s ∧
    (∀ rest more, s.env.sched = .host :: rest →
      s.env.host = .write s.cfg.mmioBase 4 (encode i) :: more →
      step s = .next (s.afterEvent rest)) ∧
    (∀ o rest more, s.env.sched = .dispatch o :: .host :: rest → s.tx.dispState = .ready →
      0 < s.cfg.txqDepth → s.env.host = .write s.cfg.mmioBase 4 (encode i) :: more →
      ∃ t, runSteps 2 s = .next t ∧ t.tx.txq = s.tx.txq.tail ++ [encode i] ∧
        t.tx.txEnqCount = s.tx.txEnqCount + 1 ∧ t.env.host = more) ∧
    (∀ addr n, s.accessHeld (.read addr n) = false) ∧
    (∀ addr n m, s.accessHeld (.write addr n (encode (.setmode m))) = false) ∧
    (∀ addr n w why, decode w = .illegal why → s.accessHeld (.write addr n w) = false)

/-- 45 R132, R133: the encoder that a stored word selects is that of the request it was enqueued by, on
that request's fields. -/
def Obligations.StoredRequestSelectsItsEncoder : Prop :=
  ∀ (tg : Bool) (m : BitVec 3) (a b : Byte),
    encodeRequest (encode (.enqnec a b)) tg = necEncode a b ∧
    encodeRequest (encode (.enqrc6 m a b)) tg = rc6Encode m tg a b

/-! ### EDGE and IDLE_FIRE -/

/-- 41 R77, R78, R79: EDGE(t) is enabled as R78 says; it is then ignored in Idle and dropped at capacity,
changing `clk_us` only; otherwise it records the sample, and the first edge of a frame, and no later
one, arms the timer. -/
def Obligations.EdgeRecordsOrOnlyMovesTime : Prop :=
  ∀ (s : State) (at_ : Nat) (rest : List Event), s.env.sched = .edge at_ :: rest →
    (Event.enabled s (.edge at_) = true ↔
      s.rx.clkUs ≤ at_ ∧ (s.rx.frameActive = false ∨ at_ ≤ s.rx.deadline)) ∧
    (s.rx.clkUs ≤ at_ ∧ (s.rx.frameActive = false ∨ at_ ≤ s.rx.deadline) →
      (s.rx.rxMode = .idle ∨ cap s.rx.rxMode ≤ s.rx.rxIndex →
        step s = .next { s.afterEvent rest with rx := { s.rx with clkUs := at_ } }) ∧
      (s.rx.rxMode ≠ .idle → s.rx.rxIndex < cap s.rx.rxMode →
        ∃ buf, step s = .next { s.afterEvent rest with
            rx := { s.rx with
              clkUs := at_
              edgeBuf := buf
              rxIndex := s.rx.rxIndex + 1
              frameActive := if s.rx.rxIndex = 0 then true else s.rx.frameActive
              deadline := if s.rx.rxIndex = 0 then
                  (if s.rx.rxMode = .nec then at_ + s.cfg.necIdleTimeoutUs
                    else at_ + s.cfg.rc6IdleTimeoutUs)
                else s.rx.deadline } } ∧
          buf.toList[s.rx.rxIndex]? = some (BitVec.ofNat 32 at_) ∧
          ∀ j, j ≠ s.rx.rxIndex → buf.toList[j]? = s.rx.edgeBuf.toList[j]?))

/-- 41 R80, R81, R83, R84, R85: IDLE_FIRE is enabled iff a frame is active; it sets the time to the
deadline, resets the buffer, disarms the timer and records the result of the mode's decoder on the
snapshot; nothing else changes. -/
def Obligations.IdleFireDecodesTheSnapshot : Prop :=
  ∀ (s : State) (rest : List Event) (res : DecodeResult), s.env.sched = .idleFire :: rest →
    res = (if s.rx.rxMode = .nec then necDecode (s.rx.edgeBuf.toList.take s.rx.rxIndex)
      else rc6Decode s.cfg.rc6RoundTies (s.rx.edgeBuf.toList.take s.rx.rxIndex)) →
    (Event.enabled s .idleFire = true ↔ s.rx.frameActive = true) ∧
    (s.rx.frameActive = true →
      (∀ msg, res = .ok msg → step s = .next { s.afterEvent rest with
        rx := { s.rx with
          clkUs := s.rx.deadline, rxIndex := 0, frameActive := false
          rxMsg := msgWord msg
          rxMsgCount := s.rx.rxMsgCount + 1
          rxResult := match msg with | .nec _ _ => 1 | .rc6 _ _ _ => 2 }
        ports := { s.ports with rxOut := s.ports.rxOut ++ [msg] } }) ∧
      (∀ e, res = .fail e → step s = .next { s.afterEvent rest with
        rx := { s.rx with
          clkUs := s.rx.deadline, rxIndex := 0, frameActive := false
          rxFailCount := s.rx.rxFailCount + 1
          rxResult := match e with
            | .protocolMismatch => 3 | .malformedSymbol => 4
            | .checksumFailure => 5 | .unsupportedMode => 6 }
        ports := { s.ports with logOut := s.ports.logOut ++ [.decode e] } }))

/-- 41 R89: while the timer is armed an edge is enabled up to the deadline and, after the fire, from the
deadline on; so one at the deadline may join the frame, if there is room, or start the next. -/
def Obligations.EdgeAtTheDeadlineMayGoEitherWay : Prop :=
  ∀ s : State, s.Inv → s.rx.frameActive = true →
    (∀ t, Event.enabled s (.edge t) = true ↔ s.rx.clkUs ≤ t ∧ t ≤ s.rx.deadline) ∧
    Event.enabled s .idleFire = true ∧
    s.takeIdleFire.rx.clkUs = s.rx.deadline ∧
    (∀ t, Event.enabled s.takeIdleFire (.edge t) = true ↔ s.rx.deadline ≤ t) ∧
    (s.rx.rxIndex < cap s.rx.rxMode → (s.takeEdge s.rx.deadline).rx.rxIndex = s.rx.rxIndex + 1) ∧
    (s.takeIdleFire.takeEdge s.rx.deadline).rx.rxIndex = 1 ∧
    (s.takeIdleFire.takeEdge s.rx.deadline).rx.edgeBuf.toList[0]? = some (sample s.rx.deadline)

/-- 41 R86: the layout of RX_MSG. -/
def Obligations.MessageWordLayout : Prop :=
  ∀ m a b : Byte,
    (msgWord (.nec a b)).toNat = 0x40000000 + a.toNat * 2 ^ 8 + b.toNat ∧
    (msgWord (.rc6 m a b)).toNat = 0x80000000 + m.toNat * 2 ^ 16 + a.toNat * 2 ^ 8 + b.toNat

/-- 41 R82: in a frame whose true edge times are `ts`, every modular difference the decoders read is the
true difference. -/
def Obligations.ModularDifferencesAreTrueDifferences : Prop :=
  ∀ (cfg : Config) (r : Receiver) (ts : List Nat), cfg.Valid → r.FrameTimes cfg ts →
    r.clkUs ≤ r.deadline →
    ∀ i, 1 ≤ i → i < ts.length → dur r.snapshot i = ts.getD i 0 - ts.getD (i - 1) 0

/-- 41 R78, R82: every step keeps that the buffer holds the low 32 bits of the true times of the current
frame's edges, in order, and that the deadline is the first of them plus the timeout. -/
def Obligations.StepKeepsTrueFrameTimes : Prop :=
  ∀ s t : State, s.Inv → (∃ ts, s.rx.FrameTimes s.cfg ts) → step s = .next t →
    ∃ ts, t.rx.FrameTimes t.cfg ts

/-! ### The decoders -/

/-- 42 R91, R92, R94, R95, R97, R98: NECDecode, on durations `D(i) = (S[i] - S[i-1]) mod 2^32`. -/
def Obligations.NecDecodeFirstFailingStepDecides : Prop :=
  ∀ (S : List Timestamp) (D : Nat → Nat),
    (∀ i, D i = ((S.getD i 0).toNat + 2 ^ 32 - (S.getD (i - 1) 0).toNat) % 2 ^ 32) →
    (necDecode S = .fail .protocolMismatch ↔
      S.length < 3 ∨ ¬(8000 ≤ D 1 ∧ D 1 < 10000 ∧ 3500 ≤ D 2 ∧ D 2 < 5500)) ∧
    (3 ≤ S.length → 8000 ≤ D 1 ∧ D 1 < 10000 ∧ 3500 ≤ D 2 ∧ D 2 < 5500 →
      (necDecode S = .fail .malformedSymbol ↔
        S.length < 67 ∨ ∃ k < 32, ¬(250 ≤ D (3 + 2 * k) ∧ D (3 + 2 * k) < 850)) ∧
      (67 ≤ S.length → (∀ k < 32, 250 ≤ D (3 + 2 * k) ∧ D (3 + 2 * k) < 850) →
        (necDecode S = .fail .checksumFailure ↔
          ∃ k < 8, (1100 < D (4 + 2 * k) ↔ 1100 < D (4 + 2 * (k + 8))) ∨
            (1100 < D (4 + 2 * (k + 16)) ↔ 1100 < D (4 + 2 * (k + 24)))) ∧
        (∀ d c : Byte, necDecode S = .ok (.nec d c) ↔
          ∀ k < 8, (1100 < D (4 + 2 * k) ↔ d.getLsbD (7 - k) = true) ∧
            (1100 < D (4 + 2 * (k + 8)) ↔ d.getLsbD (7 - k) = false) ∧
            (1100 < D (4 + 2 * (k + 16)) ↔ c.getLsbD (7 - k) = true) ∧
            (1100 < D (4 + 2 * (k + 24)) ↔ c.getLsbD (7 - k) = false))))

/-- 42 R99: NECDecode reads edges 0 to 66 and nothing after them. -/
def Obligations.NecDecodeReadsOnly67Edges : Prop :=
  ∀ S X : List Timestamp, S.length = 67 → necDecode (S ++ X) = necDecode S

/-- 10 R23, 42 R90, 43 R100: neither decoder depends on the absolute time, wrap of the 32-bit sample
included. -/
def Obligations.DecodersReadOnlyDifferences : Prop :=
  ∀ (ties : TieRule) (S : List Timestamp) (x : Timestamp),
    necDecode (S.map (· + x)) = necDecode S ∧ rc6Decode ties (S.map (· + x)) = rc6Decode ties S

/-- 43 R101: `rdiv` is the nearest number of units of 444 µs; the tie rule decides r = 222. -/
def Obligations.UnitClassificationIsNearest : Prop :=
  ∀ (ties : TieRule) (d : Nat),
    2 * d ≤ 2 * 444 * rdiv ties d + 444 ∧ 2 * 444 * rdiv ties d ≤ 2 * d + 444 ∧
    (d % 444 = 222 → rdiv .up d = d / 444 + 1 ∧ rdiv .even d % 2 = 0) ∧
    (d % 444 ≠ 222 → rdiv .up d = rdiv .even d)

/-- 43 R102, R103, R104: RC6Decode fails with ProtocolMismatch exactly on a buffer of fewer than 4 edges,
a leader outside its open bands, or a start bit that is not 1 unit. -/
def Obligations.Rc6FramingChecksExactly : Prop :=
  ∀ (ties : TieRule) (S : List Timestamp),
    rc6Decode ties S = .fail .protocolMismatch ↔
      S.length < 4 ∨
      ¬(2220 < dur S 1 ∧ dur S 1 < 3108 ∧ 444 < dur S 2 ∧ dur S 2 < 1332) ∨
      rdiv ties (dur S 3) ≠ 1

/-- 43 R105 to R114: RC6Decode of a buffer that passes the framing checks, on its unit counts `U`. It is
MalformedSymbol if the 20 bits cannot be read. If they can, as bits `b` whose durations begin at `p`, then
the last half (1 unit, if bit 19 is 0 and a duration is left) and after it the trailing gap (absent, or 0, 6
or 7 units) decide MalformedSymbol; only then does a mode other than 0 decide UnsupportedMode; and otherwise
the message has bits 4 to 11 as control and 12 to 19 as information, MSB-first. -/
def Obligations.Rc6DecodeFirstFailingStepDecides : Prop :=
  ∀ (ties : TieRule) (S : List Timestamp) (U : Nat → Nat),
    (∀ i, U i = rdiv ties (((S.getD i 0).toNat + 2 ^ 32 - (S.getD (i - 1) 0).toNat) % 2 ^ 32)) →
    4 ≤ S.length → 2220 < dur S 1 ∧ dur S 1 < 3108 ∧ 444 < dur S 2 ∧ dur S 2 < 1332 → U 3 = 1 →
    ((∀ b p, ¬Rc6Reading U S.length b p) → rc6Decode ties S = .fail .malformedSymbol) ∧
    ∀ (b : Nat → Bool) (p : Nat → Nat) (e : Nat), Rc6Reading U S.length b p →
      e = (if b 19 = false ∧ p 20 < S.length then p 20 + 1 else p 20) →
      (rc6Decode ties S = .fail .malformedSymbol ↔
        (b 19 = false ∧ p 20 < S.length ∧ U (p 20) ≠ 1) ∨
        (e < S.length ∧ U e ≠ 0 ∧ U e ≠ 6 ∧ U e ≠ 7)) ∧
      ((b 19 = false → p 20 < S.length → U (p 20) = 1) →
        (e < S.length → U e = 0 ∨ U e = 6 ∨ U e = 7) →
        (rc6Decode ties S = .fail .unsupportedMode ↔ b 0 = true ∨ b 1 = true ∨ b 2 = true) ∧
        ∀ c i : Byte, rc6Decode ties S = .ok (.rc6 0 c i) ↔
          (b 0 = false ∧ b 1 = false ∧ b 2 = false) ∧
          ∀ j < 8, c.getLsbD (7 - j) = b (4 + j) ∧ i.getLsbD (7 - j) = b (12 + j))

/-- 43 R113, R114, 42 R98, 60 R144: which results each decoder can give: NECDecode an NEC message and no
UnsupportedMode, RC6Decode an RC6 message of mode 0 and no ChecksumFailure. -/
def Obligations.DecodersGiveOnlyTheirOwnResults : Prop :=
  ∀ (ties : TieRule) (S : List Timestamp),
    (∀ msg, necDecode S = .ok msg → ∃ d c, msg = .nec d c) ∧
    necDecode S ≠ .fail .unsupportedMode ∧
    (∀ msg, rc6Decode ties S = .ok msg → ∃ c i, msg = .rc6 0 c i) ∧
    rc6Decode ties S ≠ .fail .checksumFailure

/-! ### The encoders and the round trips -/

/-- 44 R117: the shape of every NEC train; its 16 one bits are the spaces of 3375 ticks, and its 16 zero
bits the spaces of 1125 ticks, which are as long as its 33 short marks. -/
def Obligations.NecTrainShape : Prop :=
  ∀ d c : Byte,
    (necEncode d c).length = 67 ∧
    (transitions (necEncode d c)).length = 68 ∧
    (necEncode d c).count 3375 = 16 ∧
    (necEncode d c).count 1125 = 33 + 16 ∧
    (necEncode d c).sum = 136125 ∧
    ((necEncode d c).take 66).sum = 135000 ∧
    (edges (necEncode d c))[66]? = some 67500 ∧
    captured (necEncode d c) 67 = (edges (necEncode d c)).dropLast

/-- 44 R123: the shape of every RC6 train. -/
def Obligations.Rc6TrainShape : Prop :=
  ∀ (m : BitVec 3) (tg : Bool) (c i : Byte),
    24 ≤ (rc6Encode m tg c i).length ∧ (rc6Encode m tg c i).length ≤ 44 ∧
    (m = 0 → 26 ≤ (rc6Encode m tg c i).length) ∧
    (∀ d ∈ rc6Encode m tg c i, ∃ u ∈ [1, 2, 3, 4, 6, 7], d = u * 888) ∧
    (rc6Encode m tg c i).sum = 64 * 888 ∧
    (transitions (rc6Encode m tg c i)).length = (rc6Encode m tg c i).length ∧
    (transitions (rc6Encode m tg c i)).getLast? =
      some (if i.getLsbD 0 then 57 * 444 else 58 * 444)

/-- 44 R128 item 1: every NEC train decodes to the message it was encoded from, both as its edges and as
captured by the 67-edge buffer. -/
def Obligations.NecRoundTrip : Prop :=
  ∀ d c : Byte,
    necDecode (samples (edges (necEncode d c))) = .ok (.nec d c) ∧
    necDecode (samples (captured (necEncode d c) 67)) = .ok (.nec d c)

/-- 44 R128 item 2: every mode-0 RC6 train decodes to its message, for both toggle values and both tie
rules. -/
def Obligations.Rc6RoundTrip : Prop :=
  ∀ (ties : TieRule) (tg : Bool) (c i : Byte),
    rc6Decode ties (samples (edges (rc6Encode 0 tg c i))) = .ok (.rc6 0 c i)

/-- 44 R128 item 3: every RC6 train of another mode fails with UnsupportedMode. -/
def Obligations.Rc6OtherModesAreUnsupported : Prop :=
  ∀ (ties : TieRule) (m : BitVec 3) (tg : Bool) (c i : Byte), m ≠ 0 →
    rc6Decode ties (samples (edges (rc6Encode m tg c i))) = .fail .unsupportedMode

/-- 44 R128 item 4, 70 R173, 43 R108: through the 28-edge buffer a mode-0 train decodes if it has at most
28 transitions, and fails with MalformedSymbol otherwise. -/
def Obligations.Rc6BufferCutsLongFrames : Prop :=
  ∀ (ties : TieRule) (tg : Bool) (c i : Byte),
    rc6Decode ties (samples (captured (rc6Encode 0 tg c i) 28)) =
      if (rc6Encode 0 tg c i).length ≤ 28 then .ok (.rc6 0 c i) else .fail .malformedSymbol

/-- 41 R78 to R84, 44 R127, 70 R171: in NEC mode with an empty buffer and a timeout above 67500 µs, the
67 captured edges of any NEC train from any start time and then the fire deliver that train's message. -/
def Obligations.NecFrameIsReceivedEndToEnd : Prop :=
  ∀ (s : State) (d c : Byte) (t0 : Nat) (rest : List Event),
    s.rx.rxMode = .nec → s.rx.rxIndex = 0 → s.rx.frameActive = false → s.rx.clkUs ≤ t0 →
    67500 < s.cfg.necIdleTimeoutUs →
    s.env.sched = (captured (necEncode d c) 67).map (fun e => .edge (t0 + e)) ++ .idleFire :: rest →
    ∃ t, runSteps 68 s = .next t ∧
      t.rx.rxResult = 1 ∧ t.rx.rxMsg = msgWord (.nec d c) ∧
      t.rx.rxMsgCount = s.rx.rxMsgCount + 1 ∧ t.rx.rxFailCount = s.rx.rxFailCount ∧
      t.rx.rxMode = .nec ∧ t.rx.rxIndex = 0 ∧ t.rx.frameActive = false ∧
      t.rx.clkUs = t0 + s.cfg.necIdleTimeoutUs ∧
      t.ports = { s.ports with rxOut := s.ports.rxOut ++ [.nec d c] } ∧
      t.tx = s.tx ∧ t.cmd = s.cmd ∧ t.env = { s.env with sched := rest }

/-! ### The dispatcher -/

/-- 45 R133, R134: DISPATCH pops the head, counts it, encodes it on the toggle bit as it stands, flips the
toggle for RC6 only, and then plays the train or, on a failed trigger, is DEAD with the failure logged;
it is enabled iff READY with a request queued. -/
def Obligations.DispatchPopsEncodesAndTriggers : Prop :=
  ∀ (s : State) (o : Trigger) (rest : List Event), s.env.sched = .dispatch o :: rest →
    (Event.enabled s (.dispatch o) = true ↔ s.tx.dispState = .ready ∧ s.tx.txq ≠ []) ∧
    (∀ w q, s.tx.dispState = .ready → s.tx.txq = w :: q →
      step s = .next { s.afterEvent rest with
        tx := { s.tx with
          txq := q
          txPopCount := s.tx.txPopCount + 1
          txCur := w
          toggle := if w.extractLsb' 28 4 = 2 then s.tx.toggle else !s.tx.toggle
          pulseTrain := if o = .ok then
              (if w.extractLsb' 28 4 = 2 then necEncode (w.extractLsb' 8 8) (w.extractLsb' 0 8)
                else rc6Encode (w.extractLsb' 16 3) s.tx.toggle (w.extractLsb' 8 8)
                  (w.extractLsb' 0 8))
            else s.tx.pulseTrain
          dispState := if o = .ok then .busy else .dead }
        ports := { s.ports with
          logOut := if o = .ok then s.ports.logOut
            else s.ports.logOut ++ [.queueDispatchFailure w] } })

/-- 45 R135: PLAY_DONE is enabled iff BUSY; it appends the train to `tx_out`, clears it, counts the
playback, zeroes `tx_cur` and makes the dispatcher READY; nothing else changes. -/
def Obligations.PlayDoneReturnsToReady : Prop :=
  ∀ (s : State) (rest : List Event), s.env.sched = .playDone :: rest →
    (Event.enabled s .playDone = true ↔ s.tx.dispState = .busy) ∧
    (s.tx.dispState = .busy → step s = .next { s.afterEvent rest with
      tx := { s.tx with
        pulseTrain := []
        txDoneCount := s.tx.txDoneCount + 1
        txCur := 0
        dispState := .ready }
      ports := { s.ports with txOut := s.ports.txOut ++ [s.tx.pulseTrain] } })

/-- 45 R136, R140: while a train is being played no step but PLAY_DONE and RESET ends or replaces it, and
no DISPATCH is enabled. -/
def Obligations.SingleFlight : Prop :=
  ∀ s t : State, step s = .next t → s.tx.dispState = .busy →
    (∀ rest, s.env.sched ≠ .reset :: rest) → (∀ rest, s.env.sched ≠ .playDone :: rest) →
    t.tx.dispState = .busy ∧ t.tx.pulseTrain = s.tx.pulseTrain ∧ t.tx.txCur = s.tx.txCur ∧
    t.tx.txPopCount = s.tx.txPopCount ∧ t.ports.txOut = s.ports.txOut ∧
    s.tx.txq <+: t.tx.txq ∧ ∀ o, Event.enabled t (.dispatch o) = false

/-- 45 R141, 60 R147: from DEAD, however many steps pass without a RESET, nothing is popped or played, no
queued request leaves, and the dispatcher is DEAD. -/
def Obligations.DeadUntilReset : Prop :=
  ∀ (n : Nat) (s t : State), runSteps n s = .next t → s.tx.dispState = .dead →
    (∀ e ∈ s.env.sched.take n, e ≠ .reset) →
    t.tx.dispState = .dead ∧ t.tx.txCur = s.tx.txCur ∧ t.tx.toggle = s.tx.toggle ∧
    t.tx.txPopCount = s.tx.txPopCount ∧ t.tx.txDoneCount = s.tx.txDoneCount ∧
    t.ports.txOut = s.ports.txOut ∧ s.tx.txq <+: t.tx.txq

/-- 44 R124, 10 R30: the toggle bit changes only by RESET or by the DISPATCH of an RC6 request, which
always flips it, whatever the trigger's outcome. -/
def Obligations.ToggleFlipsExactlyAtRc6Dispatch : Prop :=
  ∀ s t : State, step s = .next t → (∀ rest, s.env.sched ≠ .reset :: rest) →
    (t.tx.toggle = !s.tx.toggle ↔
      ∃ o rest w q, s.env.sched = .dispatch o :: rest ∧ s.tx.dispState = .ready ∧
        s.tx.txq = w :: q ∧ isNecRequest w = false)

/-- 45 R137, R139: from power-on, in any run without RESET, the requests popped so far and those still
queued are the accepted ones in order of acceptance, the trains played are the encodings of the popped
ones in that order (less the one being played or the one that failed), and so a prefix of the encodings
of all accepted requests, the RC6 ones with toggle values 0, 1, 0, ... -/
def Obligations.RequestsAreSentInOrder : Prop :=
  ∀ (cfg : Config) (clk : Nat) (buf : Vector Timestamp edgeBufSlots) (env : Environment) (n : Nat)
    (s : State), (∀ e ∈ env.sched.take n, e ≠ .reset) →
    runSteps n (State.powerOn cfg clk buf env) = .next s →
    ∃ popped, acceptedIn n (State.powerOn cfg clk buf env) = popped ++ s.tx.txq ∧
      s.tx.txPopCount = BitVec.ofNat 32 popped.length ∧
      (s.tx.dispState = .ready → s.ports.txOut = encodeRequests false popped) ∧
      (s.tx.dispState = .busy → s.ports.txOut ++ [s.tx.pulseTrain] = encodeRequests false popped) ∧
      (s.tx.dispState = .dead → s.ports.txOut = (encodeRequests false popped).dropLast) ∧
      s.ports.txOut <+: encodeRequests false (acceptedIn n (State.powerOn cfg clk buf env))

/-- 45 R138, R142: in a state with the invariants, the request at place `p` of the FIFO has the tag
`tx_pop_count + p`, the next one accepted gets the tag after them, and none of them counts as complete. -/
def Obligations.QueuedRequestsAreNotComplete : Prop :=
  ∀ s : State, s.Inv →
    s.tx.txEnqCount = s.tx.txPopCount + BitVec.ofNat 32 s.tx.txq.length ∧
    (∀ p ≤ s.tx.txq.length, tagPassed (s.tx.txPopCount + BitVec.ofNat 32 p) s.tx.txPopCount = false) ∧
    ∀ (k : Word) (j : Nat), j < 2 ^ 32 →
      (tagPassed k (k + BitVec.ofNat 32 j) = true ↔ 1 ≤ j ∧ j ≤ 2 ^ 31)

/-- 45 R143: the receive side and the transmit side are independent: no step of one writes the other, what
a step does to one side depends on that side alone, and so does what it appends to the output ports: the
transmit side's steps to `tx_out` and `log_out`, the receive side's to `rx_out` and `log_out`. -/
def Obligations.ReceiveAndTransmitAreIndependent : Prop :=
  (∀ (s t : State) (e : Event), (∃ o, e = .dispatch o) ∨ e = .playDone → e.step s = .next t →
    t.rx = s.rx) ∧
  (∀ (s t : State) (e : Event), (∃ x, e = .edge x) ∨ e = .idleFire → e.step s = .next t →
    t.tx = s.tx) ∧
  (∀ (s t : State) (i : Instr), exec i s = .next t →
    ((∃ m, i = .setmode m) → t.tx = s.tx) ∧ ((∀ m, i ≠ .setmode m) → t.rx = s.rx)) ∧
  (∀ (s s' t t' : State) (e : Event), e ≠ .host → s.cfg = s'.cfg → s.tx = s'.tx →
    e.step s = .next t → e.step s' = .next t' → t.tx = t'.tx) ∧
  (∀ (s s' t t' : State) (e : Event), e ≠ .host → s.cfg = s'.cfg → s.rx = s'.rx →
    e.step s = .next t → e.step s' = .next t' → t.rx = t'.rx) ∧
  (∀ (s s' t t' : State) (i : Instr), s.cfg = s'.cfg →
    exec i s = .next t → exec i s' = .next t' →
    (s.tx = s'.tx → t.tx = t'.tx) ∧ (s.rx = s'.rx → t.rx = t'.rx)) ∧
  (∀ (s s' t t' : State) (e : Event), (∃ o, e = .dispatch o) ∨ e = .playDone → s.cfg = s'.cfg →
    s.tx = s'.tx → e.step s = .next t → e.step s' = .next t' →
    t.ports.rxOut = s.ports.rxOut ∧ t'.ports.rxOut = s'.ports.rxOut ∧
    (∃ x, t.ports.txOut = s.ports.txOut ++ x ∧ t'.ports.txOut = s'.ports.txOut ++ x) ∧
    ∃ x, t.ports.logOut = s.ports.logOut ++ x ∧ t'.ports.logOut = s'.ports.logOut ++ x) ∧
  (∀ (s s' t t' : State) (e : Event), (∃ x, e = .edge x) ∨ e = .idleFire → s.cfg = s'.cfg →
    s.rx = s'.rx → e.step s = .next t → e.step s' = .next t' →
    t.ports.txOut = s.ports.txOut ∧ t'.ports.txOut = s'.ports.txOut ∧
    (∃ x, t.ports.rxOut = s.ports.rxOut ++ x ∧ t'.ports.rxOut = s'.ports.rxOut ++ x) ∧
    ∃ x, t.ports.logOut = s.ports.logOut ++ x ∧ t'.ports.logOut = s'.ports.logOut ++ x) ∧
  (∀ (s t : State) (i : Instr), exec i s = .next t → t.ports = s.ports)

/-! ### RESET and power-on -/

/-- 70 R164: RESET, in any state, gives every element the value the rule lists, leaves `edge_buf`, `clk_us`
and the ports, every readable register then reads 0, and a write that a full FIFO held is held no more. -/
def Obligations.ResetSetsTheListedValues : Prop :=
  ∀ (s : State) (rest : List Event), s.env.sched = .reset :: rest →
    ∃ t, step s = .next t ∧
      t = { s.afterEvent rest with
        rx := { rxMode := .idle, edgeBuf := s.rx.edgeBuf, rxIndex := 0, frameActive := false,
                deadline := 0, clkUs := s.rx.clkUs, rxResult := 0, rxMsg := 0, rxMsgCount := 0,
                rxFailCount := 0 }
        tx := { txq := [], dispState := .ready, toggle := false, pulseTrain := [], txCur := 0,
                txEnqCount := 0, txPopCount := 0, txDoneCount := 0 }
        cmd := { cmdIllegal := false, illegalCount := 0 } } ∧
      (∀ r v, t.readReg r = some v → v = 0) ∧
      (0 < s.cfg.txqDepth → t.env.host = s.env.host ∧ ∀ a, t.accessHeld a = false)

/-- 70 R167, 10 R38: at power-on, for any parameters, start time and buffer content, the ports are empty,
every readable register reads 0, and the invariants hold if the parameters are within their bounds. -/
def Obligations.PowerOnStateIsTheResetState : Prop :=
  ∀ (cfg : Config) (clk : Nat) (buf : Vector Timestamp edgeBufSlots) (env : Environment),
    (State.powerOn cfg clk buf env).applyReset = State.powerOn cfg clk buf env ∧
    (State.powerOn cfg clk buf env).ports = { rxOut := [], txOut := [], logOut := [] } ∧
    (∀ r v, (State.powerOn cfg clk buf env).readReg r = some v → v = 0) ∧
    (cfg.Valid → (State.powerOn cfg clk buf env).Inv)

/-! ### Invariants and whole-machine rules -/

/-- 10 R39 with R24, R31, R32, 41 R86 and 45 R132: every step keeps the invariants, from every state that
has them. -/
def Obligations.StepKeepsTheInvariants : Prop :=
  ∀ s t : State, s.Inv → step s = .next t → t.Inv

/-- 10 R39: every state that a run from power-on reaches, under any schedule and any HOST program and
with any admissible parameters, satisfies the eight invariants of the rule. -/
def Obligations.ReachableStatesSatisfyR39 : Prop :=
  ∀ (cfg : Config) (clk : Nat) (buf : Vector Timestamp edgeBufSlots) (env : Environment) (n : Nat)
    (s : State), cfg.Valid → runSteps n (State.powerOn cfg clk buf env) = .next s →
    s.rx.rxIndex ≤ cap s.rx.rxMode ∧
    (s.rx.frameActive = true ↔ 0 < s.rx.rxIndex) ∧
    (s.rx.rxMode = .idle → s.rx.rxIndex = 0 ∧ s.rx.frameActive = false) ∧
    (s.rx.frameActive = true → s.rx.clkUs ≤ s.rx.deadline) ∧
    s.tx.txq.length ≤ s.cfg.txqDepth ∧
    ((s.tx.dispState = .busy ↔ s.tx.pulseTrain ≠ []) ∧ (s.tx.dispState = .busy → s.tx.txCur ≠ 0)) ∧
    s.tx.txEnqCount - s.tx.txPopCount = BitVec.ofNat 32 s.tx.txq.length ∧
    s.tx.txPopCount - s.tx.txDoneCount =
      if s.tx.dispState = .busy ∨ s.tx.dispState = .dead then 1 else 0

/-- 60 R145, R148, R149, R155: no error stops the block: every state has a next one. That no outcome is a
fault or a refusal is the model's reading of those rules (log entry 15), and that an empty schedule, or an
entry that is not enabled, has a next state too is the model's choice (log entry 1). -/
def Obligations.EveryStepAnswersNext : Prop :=
  ∀ s : State, ∃ t, step s = .next t

/-- 00 R3: an event that is not enabled does not happen: its schedule entry goes and nothing else does. -/
def Obligations.DisabledEventsDoNothing : Prop :=
  ∀ (s : State) (e : Event) (rest : List Event), s.env.sched = e :: rest →
    Event.enabled (s.afterEvent rest) e = false → step s = .next (s.afterEvent rest)

/-- 70 R168: no step changes a parameter. -/
def Obligations.ParametersNeverChange : Prop :=
  ∀ (n : Nat) (s t : State), runSteps n s = .next t → t.cfg = s.cfg

/-- 00 R4, 10 R23: the model's time never runs back, and only EDGE and IDLE_FIRE move it. -/
def Obligations.TimeNeverRunsBack : Prop :=
  ∀ s t : State, s.Inv → step s = .next t →
    s.rx.clkUs ≤ t.rx.clkUs ∧
    (s.rx.clkUs < t.rx.clkUs → ∃ e rest, s.env.sched = e :: rest ∧ ((∃ x, e = .edge x) ∨ e = .idleFire))

/-- 10 R41: the output ports are append-only; no step, RESET included, takes an entry back. -/
def Obligations.PortsOnlyGrow : Prop :=
  ∀ (n : Nat) (s t : State), runSteps n s = .next t →
    s.ports.rxOut <+: t.ports.rxOut ∧ s.ports.txOut <+: t.ports.txOut ∧
    s.ports.logOut <+: t.ports.logOut

/-- 10 R40: the counters wrap from 0xFFFFFFFF to 0: each step leaves a counter, adds one modulo 2^32, or
(RESET) clears it. -/
def Obligations.CountersWrap : Prop :=
  ∀ s t : State, step s = .next t →
    ∀ c : State → Word, c ∈ [(·.rx.rxMsgCount), (·.rx.rxFailCount), (·.tx.txEnqCount),
        (·.tx.txPopCount), (·.tx.txDoneCount), (·.cmd.illegalCount)] →
      c t = c s ∨ (c t).toNat = ((c s).toNat + 1) % 2 ^ 32 ∨
      (c t = 0 ∧ ∃ rest, s.env.sched = .reset :: rest)

/-! ### Liveness under weak fairness -/

/-- 00 R5, 45 R135, R140: in a run without RESET that is fair to the pulse generator, every playback
completes, and its train is appended to `tx_out`. -/
def Obligations.FairPlaybackCompletes : Prop :=
  ∀ (ρ : Nat → State) (ev : Nat → Event), IsRun ρ ev → NoReset ev → WeaklyFair .pulseGen ρ ev →
    ∀ n, (ρ n).tx.dispState = .busy →
      ∃ m, n < m ∧ (ρ m).tx.dispState = .ready ∧
        (ρ m).ports.txOut = (ρ n).ports.txOut ++ [(ρ n).tx.pulseTrain] ∧
        (ρ m).tx.txDoneCount = (ρ n).tx.txDoneCount + 1

/-- 00 R5, 45 R133, R137, R141: in a run without RESET that is fair to the dispatcher and the pulse
generator, the request at the head of the FIFO is eventually popped and played, or the dispatcher is DEAD. -/
def Obligations.FairRequestsArePopped : Prop :=
  ∀ (ρ : Nat → State) (ev : Nat → Event), IsRun ρ ev → NoReset ev →
    WeaklyFair .dispatcher ρ ev → WeaklyFair .pulseGen ρ ev →
    ∀ n w q, (ρ n).tx.txq = w :: q →
      ∃ m, n ≤ m ∧ ((ρ m).tx.dispState = .dead ∨
        ((ρ m).tx.dispState = .busy ∧ (ρ m).tx.txCur = w ∧
          (ρ m).tx.txPopCount = (ρ n).tx.txPopCount + 1))
end

