-- ==== Sys2Proof/Laws/Codec.lean ====
section
/-! SUPPORT. Small lemmas of the codec's own operations: durations, unit classification, the pen of the
RC6 encoder and the edges of a train. -/

namespace Sys2Proof.Machine

/-! ### Durations (42 R90) -/

/-- A duration inside the buffer is the modular difference of two stored samples. -/
theorem dur_eq {S : List Timestamp} {i : Nat} (h : i < S.length) :
    dur S i = (S[i] - S[i - 1]'(by omega)).toNat := by
  rw [dur, List.getD_eq_getElem _ _ h, List.getD_eq_getElem _ _ (show i - 1 < S.length by omega)]

/-- A duration is less than 2^32 (41 R82). -/
theorem dur_lt (S : List Timestamp) (i : Nat) : dur S i < 2 ^ 32 := BitVec.isLt _

/-- A duration before the end of a prefix is read from the prefix alone. -/
theorem dur_append {S X : List Timestamp} {i : Nat} (h : i < S.length) : dur (S ++ X) i = dur S i := by
  rw [dur, dur, List.getD_append _ _ _ _ h, List.getD_append _ _ _ _ (show i - 1 < S.length by omega)]

/-- On samples of ordered times less than 2^32 µs apart, a duration is the true difference (41 R82). -/
theorem dur_samples {ts : List Nat} {i : Nat} (h : i < ts.length)
    (ho : ts.getD (i - 1) 0 ≤ ts.getD i 0) (hd : ts.getD i 0 - ts.getD (i - 1) 0 < 2 ^ 32) :
    dur (samples ts) i = ts.getD i 0 - ts.getD (i - 1) 0 := by
  have h1 : i - 1 < ts.length := by omega
  rw [List.getD_eq_getElem _ _ h, List.getD_eq_getElem _ _ h1] at ho hd ⊢
  rw [dur_eq (by simpa [samples] using h)]
  simp only [samples, sample, List.getElem_map, BitVec.toNat_sub, BitVec.toNat_ofNat]
  omega

/-! ### Units (43 R101) -/

/-- A whole number of units classifies to itself, under either tie rule. -/
theorem rdiv_units (ties : TieRule) (u : Nat) : rdiv ties (u * 444) = u := by
  simp [rdiv, rc6UnitUs]

/-! ### One RC6 bit (43 R107) -/

theorem rc6Width_pos (k : Nat) : 1 ≤ rc6Width k := by unfold rc6Width; split <;> omega

/-- Everything `rc6Bit` can answer: a bit that differs from the last one is one merged duration, a bit equal
to it is two durations, and all of them lie in the buffer. -/
theorem rc6Bit_eq_some_iff {ties : TieRule} {S : List Timestamp} {w : Nat} {c d : Rc6Cursor} (hw : 1 ≤ w) :
    rc6Bit ties S w c = some d ↔
      ∃ bit, d = { level := bit, prevWidth := w, next := c.next + (if bit = c.level then 2 else 1)
                   bits := c.bits ++ [bit] } ∧
        d.next ≤ S.length ∧
        (bit ≠ c.level → rdiv ties (dur S c.next) = c.prevWidth + w) ∧
        (bit = c.level →
          rdiv ties (dur S c.next) = c.prevWidth ∧ rdiv ties (dur S (c.next + 1)) = w) := by
  unfold rc6Bit
  constructor
  · intro h
    split at h <;> try contradiction
    split at h
    · cases h; exact ⟨!c.level, by simp; omega⟩
    split at h <;> try contradiction
    split at h <;> try contradiction
    split at h <;> try contradiction
    cases h; refine ⟨c.level, ?_⟩; simp_all; omega
  · rintro ⟨bit, rfl, h1, h2, h3⟩
    by_cases hb : bit = c.level
    · subst hb
      obtain ⟨h4, h5⟩ := h3 rfl
      simp only [if_true] at h1
      rw [if_neg (by omega), if_neg (by omega), if_pos h4, if_neg (by omega), if_neg (by simp [h5])]
      simp
    · simp only [hb, if_false] at h1
      obtain rfl : bit = !c.level := by cases bit <;> cases h : c.level <;> simp_all
      rw [if_neg (by omega), if_pos (h2 hb)]
      simp

/-! ### The RC6 pen (44 R121) -/

/-- A bit equal to the last one adds the pending half and this bit's first half. -/
theorem rc6Emit_same {p : Rc6Pen} {b : Bool} (w : Nat) (h : b = p.level) :
    rc6Emit p b w =
      { p with train := p.train ++ [p.pending * rc6UnitTicks, w * rc6UnitTicks], pending := w } := by
  rw [rc6Emit, if_pos h]

/-- A bit that differs from the last one adds one merged duration and flips the level. -/
theorem rc6Emit_flip {p : Rc6Pen} {b : Bool} (w : Nat) (h : b ≠ p.level) :
    rc6Emit p b w =
      { train := p.train ++ [(p.pending + w) * rc6UnitTicks], level := b, pending := w } := by
  rw [rc6Emit, if_neg h]

/-! ### Edges (44 R126) -/

@[simp] theorem edgesFrom_nil (t : Nat) : edgesFrom t [] = [] := rfl

@[simp] theorem edgesFrom_cons (t d : Nat) (p : PulseTrain) :
    edgesFrom t (d :: p) = (t + d) / 2 :: edgesFrom (t + d) p := rfl

/-- The edges of a train in two parts: the second part starts where the first ends. -/
theorem edgesFrom_append (t : Nat) (p q : PulseTrain) :
    edgesFrom t (p ++ q) = edgesFrom t p ++ edgesFrom (t + p.sum) q := by
  induction p generalizing t with
  | nil => simp
  | cons d p ih => simp [ih, Nat.add_assoc]

@[simp] theorem edgesFrom_length (t : Nat) (p : PulseTrain) : (edgesFrom t p).length = p.length := by
  induction p generalizing t with
  | nil => rfl
  | cons d p ih => simp [ih]

/-- A train of `n` durations has `n + 1` boundaries. -/
@[simp] theorem edges_length (p : PulseTrain) : (edges p).length = p.length + 1 := by
  simp [edges]

/-- The bits of an `n`-bit field are `n` many. -/
@[simp] theorem msbBits_length {n : Nat} (v : BitVec n) : (msbBits v).length = n := by
  simp [msbBits]

/-- The RC6 stream is 20 bits (44 R120). -/
@[simp] theorem rc6BitStream_length (m : BitVec 3) (tg : Bool) (c i : Byte) :
    (rc6BitStream m tg c i).length = 20 := by
  simp [rc6BitStream]

end Sys2Proof.Machine
end

