-- ==== Sys2Proof/Laws/Decode.lean ====
section
/-! SUPPORT. Small lemmas of the decoder: when each field condition holds, what it answers. -/

namespace Sys2Proof

/-- The bytes of a word's lanes are the word (20 R46). -/
theorem decodeBytes_wordBytes (w : Word) : decodeBytes (wordBytes w) = decode w := by
  have : wordOfBytes (byteLane w 0) (byteLane w 1) (byteLane w 2) (byteLane w 3) = w := by
    apply BitVec.eq_of_getLsbD_eq
    intro i hi
    simp only [wordOfBytes, byteLane, BitVec.getLsbD_append, BitVec.getLsbD_extractLsb']
    rcases (by omega : i < 8 ∨ (8 ≤ i ∧ i < 16) ∨ (16 ≤ i ∧ i < 24) ∨ (24 ≤ i ∧ i < 32)) with
      h | ⟨h, h'⟩ | ⟨h, h'⟩ | ⟨h, h'⟩
    · simp [h]
    · simp [show ¬ i < 8 by omega, show i - 8 < 8 by omega, show 8 + (i - 8) = i by omega]
    · simp [show ¬ i < 8 by omega, show ¬ i - 8 < 8 by omega, show i - 8 - 8 < 8 by omega,
        show 16 + (i - 8 - 8) = i by omega]
    · simp [show ¬ i < 8 by omega, show ¬ i - 8 < 8 by omega, show ¬ i - 8 - 8 < 8 by omega,
        show i - 8 - 8 - 8 < 8 by omega, show 24 + (i - 8 - 8 - 8) = i by omega]
  simp [wordBytes, decodeBytes, this]

/-- The three commands' words are told apart by OP; a decoded command's OP is its own (30 R62). -/
theorem opField_of_decode {w : Word} {i : Instr} (h : decode w = .command i) :
    opField w = match i with
      | .setmode _ => 0x1#4
      | .enqnec _ _ => 0x2#4
      | .enqrc6 _ _ _ => 0x3#4 := by
  unfold decode at h
  split_ifs at h <;> (cases h; assumption)

end Sys2Proof
end

