-- ==== Sys2Proof/Laws/State.lean ====
section
/-! SUPPORT. One lemma per field per update of the state and of its parts, so that no later proof
unfolds a record update. -/

namespace Sys2Proof.Machine

/-! ### Receiver -/

@[simp] theorem Receiver.atTime_rxMode (r : Receiver) (t : Nat) : (r.atTime t).rxMode = r.rxMode := rfl
@[simp] theorem Receiver.atTime_edgeBuf (r : Receiver) (t : Nat) : (r.atTime t).edgeBuf = r.edgeBuf := rfl
@[simp] theorem Receiver.atTime_rxIndex (r : Receiver) (t : Nat) : (r.atTime t).rxIndex = r.rxIndex := rfl
@[simp] theorem Receiver.atTime_frameActive (r : Receiver) (t : Nat) : (r.atTime t).frameActive = r.frameActive := rfl
@[simp] theorem Receiver.atTime_deadline (r : Receiver) (t : Nat) : (r.atTime t).deadline = r.deadline := rfl
@[simp] theorem Receiver.atTime_clkUs (r : Receiver) (t : Nat) : (r.atTime t).clkUs = t := rfl
@[simp] theorem Receiver.atTime_rxResult (r : Receiver) (t : Nat) : (r.atTime t).rxResult = r.rxResult := rfl
@[simp] theorem Receiver.atTime_rxMsg (r : Receiver) (t : Nat) : (r.atTime t).rxMsg = r.rxMsg := rfl
@[simp] theorem Receiver.atTime_rxMsgCount (r : Receiver) (t : Nat) : (r.atTime t).rxMsgCount = r.rxMsgCount := rfl
@[simp] theorem Receiver.atTime_rxFailCount (r : Receiver) (t : Nat) : (r.atTime t).rxFailCount = r.rxFailCount := rfl

@[simp] theorem Receiver.disarm_rxMode (r : Receiver) : (r.disarm).rxMode = r.rxMode := rfl
@[simp] theorem Receiver.disarm_edgeBuf (r : Receiver) : (r.disarm).edgeBuf = r.edgeBuf := rfl
@[simp] theorem Receiver.disarm_rxIndex (r : Receiver) : (r.disarm).rxIndex = 0 := rfl
@[simp] theorem Receiver.disarm_frameActive (r : Receiver) : (r.disarm).frameActive = false := rfl
@[simp] theorem Receiver.disarm_deadline (r : Receiver) : (r.disarm).deadline = r.deadline := rfl
@[simp] theorem Receiver.disarm_clkUs (r : Receiver) : (r.disarm).clkUs = r.clkUs := rfl
@[simp] theorem Receiver.disarm_rxResult (r : Receiver) : (r.disarm).rxResult = r.rxResult := rfl
@[simp] theorem Receiver.disarm_rxMsg (r : Receiver) : (r.disarm).rxMsg = r.rxMsg := rfl
@[simp] theorem Receiver.disarm_rxMsgCount (r : Receiver) : (r.disarm).rxMsgCount = r.rxMsgCount := rfl
@[simp] theorem Receiver.disarm_rxFailCount (r : Receiver) : (r.disarm).rxFailCount = r.rxFailCount := rfl

@[simp] theorem Receiver.bindMode_rxMode (r : Receiver) (m : ReceiveMode) : (r.bindMode m).rxMode = m := rfl
@[simp] theorem Receiver.bindMode_edgeBuf (r : Receiver) (m : ReceiveMode) : (r.bindMode m).edgeBuf = r.edgeBuf := rfl
@[simp] theorem Receiver.bindMode_rxIndex (r : Receiver) (m : ReceiveMode) : (r.bindMode m).rxIndex = r.rxIndex := rfl
@[simp] theorem Receiver.bindMode_frameActive (r : Receiver) (m : ReceiveMode) : (r.bindMode m).frameActive = r.frameActive := rfl
@[simp] theorem Receiver.bindMode_deadline (r : Receiver) (m : ReceiveMode) : (r.bindMode m).deadline = r.deadline := rfl
@[simp] theorem Receiver.bindMode_clkUs (r : Receiver) (m : ReceiveMode) : (r.bindMode m).clkUs = r.clkUs := rfl
@[simp] theorem Receiver.bindMode_rxResult (r : Receiver) (m : ReceiveMode) : (r.bindMode m).rxResult = r.rxResult := rfl
@[simp] theorem Receiver.bindMode_rxMsg (r : Receiver) (m : ReceiveMode) : (r.bindMode m).rxMsg = r.rxMsg := rfl
@[simp] theorem Receiver.bindMode_rxMsgCount (r : Receiver) (m : ReceiveMode) : (r.bindMode m).rxMsgCount = r.rxMsgCount := rfl
@[simp] theorem Receiver.bindMode_rxFailCount (r : Receiver) (m : ReceiveMode) : (r.bindMode m).rxFailCount = r.rxFailCount := rfl

@[simp] theorem Receiver.armTimer_rxMode (r : Receiver) (d : Nat) : (r.armTimer d).rxMode = r.rxMode := rfl
@[simp] theorem Receiver.armTimer_edgeBuf (r : Receiver) (d : Nat) : (r.armTimer d).edgeBuf = r.edgeBuf := rfl
@[simp] theorem Receiver.armTimer_rxIndex (r : Receiver) (d : Nat) : (r.armTimer d).rxIndex = r.rxIndex := rfl
@[simp] theorem Receiver.armTimer_frameActive (r : Receiver) (d : Nat) : (r.armTimer d).frameActive = true := rfl
@[simp] theorem Receiver.armTimer_deadline (r : Receiver) (d : Nat) : (r.armTimer d).deadline = d := rfl
@[simp] theorem Receiver.armTimer_clkUs (r : Receiver) (d : Nat) : (r.armTimer d).clkUs = r.clkUs := rfl
@[simp] theorem Receiver.armTimer_rxResult (r : Receiver) (d : Nat) : (r.armTimer d).rxResult = r.rxResult := rfl
@[simp] theorem Receiver.armTimer_rxMsg (r : Receiver) (d : Nat) : (r.armTimer d).rxMsg = r.rxMsg := rfl
@[simp] theorem Receiver.armTimer_rxMsgCount (r : Receiver) (d : Nat) : (r.armTimer d).rxMsgCount = r.rxMsgCount := rfl
@[simp] theorem Receiver.armTimer_rxFailCount (r : Receiver) (d : Nat) : (r.armTimer d).rxFailCount = r.rxFailCount := rfl

@[simp] theorem Receiver.store_rxMode (r : Receiver) (t : Nat) : (r.store t).rxMode = r.rxMode := rfl
@[simp] theorem Receiver.store_edgeBuf (r : Receiver) (t : Nat) : (r.store t).edgeBuf = r.edgeBuf.setIfInBounds r.rxIndex (sample t) := rfl
@[simp] theorem Receiver.store_rxIndex (r : Receiver) (t : Nat) : (r.store t).rxIndex = r.rxIndex + 1 := rfl
@[simp] theorem Receiver.store_frameActive (r : Receiver) (t : Nat) : (r.store t).frameActive = r.frameActive := rfl
@[simp] theorem Receiver.store_deadline (r : Receiver) (t : Nat) : (r.store t).deadline = r.deadline := rfl
@[simp] theorem Receiver.store_clkUs (r : Receiver) (t : Nat) : (r.store t).clkUs = r.clkUs := rfl
@[simp] theorem Receiver.store_rxResult (r : Receiver) (t : Nat) : (r.store t).rxResult = r.rxResult := rfl
@[simp] theorem Receiver.store_rxMsg (r : Receiver) (t : Nat) : (r.store t).rxMsg = r.rxMsg := rfl
@[simp] theorem Receiver.store_rxMsgCount (r : Receiver) (t : Nat) : (r.store t).rxMsgCount = r.rxMsgCount := rfl
@[simp] theorem Receiver.store_rxFailCount (r : Receiver) (t : Nat) : (r.store t).rxFailCount = r.rxFailCount := rfl

/-! ### Transmitter -/

@[simp] theorem Transmitter.enqueue_txq (t : Transmitter) (w : Word) : (t.enqueue w).txq = t.txq ++ [w] := rfl
@[simp] theorem Transmitter.enqueue_dispState (t : Transmitter) (w : Word) : (t.enqueue w).dispState = t.dispState := rfl
@[simp] theorem Transmitter.enqueue_toggle (t : Transmitter) (w : Word) : (t.enqueue w).toggle = t.toggle := rfl
@[simp] theorem Transmitter.enqueue_pulseTrain (t : Transmitter) (w : Word) : (t.enqueue w).pulseTrain = t.pulseTrain := rfl
@[simp] theorem Transmitter.enqueue_txCur (t : Transmitter) (w : Word) : (t.enqueue w).txCur = t.txCur := rfl
@[simp] theorem Transmitter.enqueue_txEnqCount (t : Transmitter) (w : Word) : (t.enqueue w).txEnqCount = t.txEnqCount + 1 := rfl
@[simp] theorem Transmitter.enqueue_txPopCount (t : Transmitter) (w : Word) : (t.enqueue w).txPopCount = t.txPopCount := rfl
@[simp] theorem Transmitter.enqueue_txDoneCount (t : Transmitter) (w : Word) : (t.enqueue w).txDoneCount = t.txDoneCount := rfl

@[simp] theorem Transmitter.pop_txq (t : Transmitter) (w : Word) (q : List Word) (flip : Bool) : (t.pop w q flip).txq = q := rfl
@[simp] theorem Transmitter.pop_dispState (t : Transmitter) (w : Word) (q : List Word) (flip : Bool) : (t.pop w q flip).dispState = t.dispState := rfl
@[simp] theorem Transmitter.pop_toggle (t : Transmitter) (w : Word) (q : List Word) (flip : Bool) : (t.pop w q flip).toggle = (if flip then !t.toggle else t.toggle) := rfl
@[simp] theorem Transmitter.pop_pulseTrain (t : Transmitter) (w : Word) (q : List Word) (flip : Bool) : (t.pop w q flip).pulseTrain = t.pulseTrain := rfl
@[simp] theorem Transmitter.pop_txCur (t : Transmitter) (w : Word) (q : List Word) (flip : Bool) : (t.pop w q flip).txCur = w := rfl
@[simp] theorem Transmitter.pop_txEnqCount (t : Transmitter) (w : Word) (q : List Word) (flip : Bool) : (t.pop w q flip).txEnqCount = t.txEnqCount := rfl
@[simp] theorem Transmitter.pop_txPopCount (t : Transmitter) (w : Word) (q : List Word) (flip : Bool) : (t.pop w q flip).txPopCount = t.txPopCount + 1 := rfl
@[simp] theorem Transmitter.pop_txDoneCount (t : Transmitter) (w : Word) (q : List Word) (flip : Bool) : (t.pop w q flip).txDoneCount = t.txDoneCount := rfl

@[simp] theorem Transmitter.start_txq (t : Transmitter) (p : PulseTrain) : (t.start p).txq = t.txq := rfl
@[simp] theorem Transmitter.start_dispState (t : Transmitter) (p : PulseTrain) : (t.start p).dispState = .busy := rfl
@[simp] theorem Transmitter.start_toggle (t : Transmitter) (p : PulseTrain) : (t.start p).toggle = t.toggle := rfl
@[simp] theorem Transmitter.start_pulseTrain (t : Transmitter) (p : PulseTrain) : (t.start p).pulseTrain = p := rfl
@[simp] theorem Transmitter.start_txCur (t : Transmitter) (p : PulseTrain) : (t.start p).txCur = t.txCur := rfl
@[simp] theorem Transmitter.start_txEnqCount (t : Transmitter) (p : PulseTrain) : (t.start p).txEnqCount = t.txEnqCount := rfl
@[simp] theorem Transmitter.start_txPopCount (t : Transmitter) (p : PulseTrain) : (t.start p).txPopCount = t.txPopCount := rfl
@[simp] theorem Transmitter.start_txDoneCount (t : Transmitter) (p : PulseTrain) : (t.start p).txDoneCount = t.txDoneCount := rfl

@[simp] theorem Transmitter.finish_txq (t : Transmitter) : (t.finish).txq = t.txq := rfl
@[simp] theorem Transmitter.finish_dispState (t : Transmitter) : (t.finish).dispState = .ready := rfl
@[simp] theorem Transmitter.finish_toggle (t : Transmitter) : (t.finish).toggle = t.toggle := rfl
@[simp] theorem Transmitter.finish_pulseTrain (t : Transmitter) : (t.finish).pulseTrain = [] := rfl
@[simp] theorem Transmitter.finish_txCur (t : Transmitter) : (t.finish).txCur = 0 := rfl
@[simp] theorem Transmitter.finish_txEnqCount (t : Transmitter) : (t.finish).txEnqCount = t.txEnqCount := rfl
@[simp] theorem Transmitter.finish_txPopCount (t : Transmitter) : (t.finish).txPopCount = t.txPopCount := rfl
@[simp] theorem Transmitter.finish_txDoneCount (t : Transmitter) : (t.finish).txDoneCount = t.txDoneCount + 1 := rfl

/-! ### State -/

@[simp] theorem State.answer_cfg (s : State) (a : HostReply) : (s.answer a).cfg = s.cfg := rfl
@[simp] theorem State.answer_rx (s : State) (a : HostReply) : (s.answer a).rx = s.rx := rfl
@[simp] theorem State.answer_tx (s : State) (a : HostReply) : (s.answer a).tx = s.tx := rfl
@[simp] theorem State.answer_cmd (s : State) (a : HostReply) : (s.answer a).cmd = s.cmd := rfl
@[simp] theorem State.answer_ports (s : State) (a : HostReply) : (s.answer a).ports = s.ports := rfl
@[simp] theorem State.answer_env (s : State) (a : HostReply) : (s.answer a).env = { s.env with host := s.env.host.tail, replies := s.env.replies ++ [a] } := rfl

@[simp] theorem State.legalCommand_cfg (s : State) : (s.legalCommand).cfg = s.cfg := rfl
@[simp] theorem State.legalCommand_rx (s : State) : (s.legalCommand).rx = s.rx := rfl
@[simp] theorem State.legalCommand_tx (s : State) : (s.legalCommand).tx = s.tx := rfl
@[simp] theorem State.legalCommand_cmd (s : State) : (s.legalCommand).cmd = { s.cmd with cmdIllegal := false } := rfl
@[simp] theorem State.legalCommand_ports (s : State) : (s.legalCommand).ports = s.ports := rfl
@[simp] theorem State.legalCommand_env (s : State) : (s.legalCommand).env = s.env := rfl

@[simp] theorem State.afterEvent_cfg (s : State) (q : List Event) : (s.afterEvent q).cfg = s.cfg := rfl
@[simp] theorem State.afterEvent_rx (s : State) (q : List Event) : (s.afterEvent q).rx = s.rx := rfl
@[simp] theorem State.afterEvent_tx (s : State) (q : List Event) : (s.afterEvent q).tx = s.tx := rfl
@[simp] theorem State.afterEvent_cmd (s : State) (q : List Event) : (s.afterEvent q).cmd = s.cmd := rfl
@[simp] theorem State.afterEvent_ports (s : State) (q : List Event) : (s.afterEvent q).ports = s.ports := rfl
@[simp] theorem State.afterEvent_env (s : State) (q : List Event) : (s.afterEvent q).env = { s.env with sched := q } := rfl

@[simp] theorem State.hostAppends_cfg (s : State) (h : List HostAccess) : (s.hostAppends h).cfg = s.cfg := rfl
@[simp] theorem State.hostAppends_rx (s : State) (h : List HostAccess) : (s.hostAppends h).rx = s.rx := rfl
@[simp] theorem State.hostAppends_tx (s : State) (h : List HostAccess) : (s.hostAppends h).tx = s.tx := rfl
@[simp] theorem State.hostAppends_cmd (s : State) (h : List HostAccess) : (s.hostAppends h).cmd = s.cmd := rfl
@[simp] theorem State.hostAppends_ports (s : State) (h : List HostAccess) : (s.hostAppends h).ports = s.ports := rfl
@[simp] theorem State.hostAppends_env (s : State) (h : List HostAccess) : (s.hostAppends h).env = { s.env with host := s.env.host ++ h } := rfl

@[simp] theorem State.presentWord_cfg (s : State) (w : Word) : (s.presentWord w).cfg = s.cfg := rfl
@[simp] theorem State.presentWord_rx (s : State) (w : Word) : (s.presentWord w).rx = s.rx := rfl
@[simp] theorem State.presentWord_tx (s : State) (w : Word) : (s.presentWord w).tx = s.tx := rfl
@[simp] theorem State.presentWord_cmd (s : State) (w : Word) : (s.presentWord w).cmd = s.cmd := rfl
@[simp] theorem State.presentWord_ports (s : State) (w : Word) : (s.presentWord w).ports = s.ports := rfl
@[simp] theorem State.presentWord_env (s : State) (w : Word) : (s.presentWord w).env = { s.env with sched := .host :: s.env.sched, host := .write s.cfg.mmioBase 4 w :: s.env.host } := rfl

@[simp] theorem State.deliver_cfg (s : State) (m : Message) : (s.deliver m).cfg = s.cfg := rfl
@[simp] theorem State.deliver_rx (s : State) (m : Message) : (s.deliver m).rx = { s.rx with rxMsg := msgWord m, rxMsgCount := s.rx.rxMsgCount + 1, rxResult := m.code } := rfl
@[simp] theorem State.deliver_tx (s : State) (m : Message) : (s.deliver m).tx = s.tx := rfl
@[simp] theorem State.deliver_cmd (s : State) (m : Message) : (s.deliver m).cmd = s.cmd := rfl
@[simp] theorem State.deliver_ports (s : State) (m : Message) : (s.deliver m).ports = { s.ports with rxOut := s.ports.rxOut ++ [m] } := rfl
@[simp] theorem State.deliver_env (s : State) (m : Message) : (s.deliver m).env = s.env := rfl

@[simp] theorem State.raise_decode_cfg (s : State) (e : DecodeFailure) : (s.raise (.decode e)).cfg = s.cfg := rfl
@[simp] theorem State.raise_decode_rx (s : State) (e : DecodeFailure) : (s.raise (.decode e)).rx = { s.rx with rxResult := e.code, rxFailCount := s.rx.rxFailCount + 1 } := rfl
@[simp] theorem State.raise_decode_tx (s : State) (e : DecodeFailure) : (s.raise (.decode e)).tx = s.tx := rfl
@[simp] theorem State.raise_decode_cmd (s : State) (e : DecodeFailure) : (s.raise (.decode e)).cmd = s.cmd := rfl
@[simp] theorem State.raise_decode_ports (s : State) (e : DecodeFailure) : (s.raise (.decode e)).ports = { s.ports with logOut := s.ports.logOut ++ [.decode e] } := rfl
@[simp] theorem State.raise_decode_env (s : State) (e : DecodeFailure) : (s.raise (.decode e)).env = s.env := rfl

@[simp] theorem State.raise_dispatchFailure_cfg (s : State) (w : Word) : (s.raise (.queueDispatchFailure w)).cfg = s.cfg := rfl
@[simp] theorem State.raise_dispatchFailure_rx (s : State) (w : Word) : (s.raise (.queueDispatchFailure w)).rx = s.rx := rfl
@[simp] theorem State.raise_dispatchFailure_tx (s : State) (w : Word) : (s.raise (.queueDispatchFailure w)).tx = { s.tx with dispState := .dead } := rfl
@[simp] theorem State.raise_dispatchFailure_cmd (s : State) (w : Word) : (s.raise (.queueDispatchFailure w)).cmd = s.cmd := rfl
@[simp] theorem State.raise_dispatchFailure_ports (s : State) (w : Word) : (s.raise (.queueDispatchFailure w)).ports = { s.ports with logOut := s.ports.logOut ++ [.queueDispatchFailure w] } := rfl
@[simp] theorem State.raise_dispatchFailure_env (s : State) (w : Word) : (s.raise (.queueDispatchFailure w)).env = s.env := rfl

@[simp] theorem State.raise_illegalCommand_cfg (s : State) : (s.raise .illegalCommand).cfg = s.cfg := rfl
@[simp] theorem State.raise_illegalCommand_rx (s : State) : (s.raise .illegalCommand).rx = s.rx := rfl
@[simp] theorem State.raise_illegalCommand_tx (s : State) : (s.raise .illegalCommand).tx = s.tx := rfl
@[simp] theorem State.raise_illegalCommand_cmd (s : State) : (s.raise .illegalCommand).cmd = { s.cmd with cmdIllegal := true, illegalCount := s.cmd.illegalCount + 1 } := rfl
@[simp] theorem State.raise_illegalCommand_ports (s : State) : (s.raise .illegalCommand).ports = s.ports := rfl
@[simp] theorem State.raise_illegalCommand_env (s : State) : (s.raise .illegalCommand).env = s.env := rfl

@[simp] theorem State.raise_busError_cfg (s : State) (a n : Nat) (d : Direction) : (s.raise (.busError a n d)).cfg = s.cfg := rfl
@[simp] theorem State.raise_busError_rx (s : State) (a n : Nat) (d : Direction) : (s.raise (.busError a n d)).rx = s.rx := rfl
@[simp] theorem State.raise_busError_tx (s : State) (a n : Nat) (d : Direction) : (s.raise (.busError a n d)).tx = s.tx := rfl
@[simp] theorem State.raise_busError_cmd (s : State) (a n : Nat) (d : Direction) : (s.raise (.busError a n d)).cmd = s.cmd := rfl
@[simp] theorem State.raise_busError_ports (s : State) (a n : Nat) (d : Direction) : (s.raise (.busError a n d)).ports = s.ports := rfl
@[simp] theorem State.raise_busError_env (s : State) (a n : Nat) (d : Direction) : (s.raise (.busError a n d)).env = { s.env with host := s.env.host.tail, replies := s.env.replies ++ [.busError a n d] } := rfl

@[simp] theorem State.applyReset_cfg (s : State) : (s.applyReset).cfg = s.cfg := rfl
@[simp] theorem State.applyReset_rx (s : State) : (s.applyReset).rx = Receiver.powerOn s.rx.clkUs s.rx.edgeBuf := rfl
@[simp] theorem State.applyReset_tx (s : State) : (s.applyReset).tx = Transmitter.powerOn := rfl
@[simp] theorem State.applyReset_cmd (s : State) : (s.applyReset).cmd = CommandStatus.powerOn := rfl
@[simp] theorem State.applyReset_ports (s : State) : (s.applyReset).ports = s.ports := rfl
@[simp] theorem State.applyReset_env (s : State) : (s.applyReset).env = s.env := rfl

@[simp] theorem State.setReceiveMode_cfg (s : State) (m : ReceiveMode) : (s.setReceiveMode m).cfg = s.cfg := rfl
@[simp] theorem State.setReceiveMode_rx (s : State) (m : ReceiveMode) : (s.setReceiveMode m).rx = s.rx.disarm.bindMode m := rfl
@[simp] theorem State.setReceiveMode_tx (s : State) (m : ReceiveMode) : (s.setReceiveMode m).tx = s.tx := rfl
@[simp] theorem State.setReceiveMode_cmd (s : State) (m : ReceiveMode) : (s.setReceiveMode m).cmd = { s.cmd with cmdIllegal := false } := rfl
@[simp] theorem State.setReceiveMode_ports (s : State) (m : ReceiveMode) : (s.setReceiveMode m).ports = s.ports := rfl
@[simp] theorem State.setReceiveMode_env (s : State) (m : ReceiveMode) : (s.setReceiveMode m).env = s.env := rfl

@[simp] theorem State.takeEdge_cfg (s : State) (t : Nat) : (s.takeEdge t).cfg = s.cfg := rfl
@[simp] theorem State.takeEdge_rx (s : State) (t : Nat) : (s.takeEdge t).rx = s.rx.edge s.cfg t := rfl
@[simp] theorem State.takeEdge_tx (s : State) (t : Nat) : (s.takeEdge t).tx = s.tx := rfl
@[simp] theorem State.takeEdge_cmd (s : State) (t : Nat) : (s.takeEdge t).cmd = s.cmd := rfl
@[simp] theorem State.takeEdge_ports (s : State) (t : Nat) : (s.takeEdge t).ports = s.ports := rfl
@[simp] theorem State.takeEdge_env (s : State) (t : Nat) : (s.takeEdge t).env = s.env := rfl

@[simp] theorem State.acceptRequest_cfg (s : State) (w : Word) : (s.acceptRequest w).cfg = s.cfg := rfl
@[simp] theorem State.acceptRequest_rx (s : State) (w : Word) : (s.acceptRequest w).rx = s.rx := rfl
@[simp] theorem State.acceptRequest_tx (s : State) (w : Word) : (s.acceptRequest w).tx = s.tx.enqueue w := rfl
@[simp] theorem State.acceptRequest_cmd (s : State) (w : Word) : (s.acceptRequest w).cmd = { s.cmd with cmdIllegal := false } := rfl
@[simp] theorem State.acceptRequest_ports (s : State) (w : Word) : (s.acceptRequest w).ports = s.ports := rfl
@[simp] theorem State.acceptRequest_env (s : State) (w : Word) : (s.acceptRequest w).env = s.env := rfl

@[simp] theorem State.trigger_ok_cfg (s : State) (w : Word) (p : PulseTrain) : (s.trigger .ok w p).cfg = s.cfg := rfl
@[simp] theorem State.trigger_ok_rx (s : State) (w : Word) (p : PulseTrain) : (s.trigger .ok w p).rx = s.rx := rfl
@[simp] theorem State.trigger_ok_tx (s : State) (w : Word) (p : PulseTrain) : (s.trigger .ok w p).tx = s.tx.start p := rfl
@[simp] theorem State.trigger_ok_cmd (s : State) (w : Word) (p : PulseTrain) : (s.trigger .ok w p).cmd = s.cmd := rfl
@[simp] theorem State.trigger_ok_ports (s : State) (w : Word) (p : PulseTrain) : (s.trigger .ok w p).ports = s.ports := rfl
@[simp] theorem State.trigger_ok_env (s : State) (w : Word) (p : PulseTrain) : (s.trigger .ok w p).env = s.env := rfl

@[simp] theorem State.takePlayDone_cfg (s : State) : (s.takePlayDone).cfg = s.cfg := rfl
@[simp] theorem State.takePlayDone_rx (s : State) : (s.takePlayDone).rx = s.rx := rfl
@[simp] theorem State.takePlayDone_tx (s : State) : (s.takePlayDone).tx = s.tx.finish := rfl
@[simp] theorem State.takePlayDone_cmd (s : State) : (s.takePlayDone).cmd = s.cmd := rfl
@[simp] theorem State.takePlayDone_ports (s : State) : (s.takePlayDone).ports = { s.ports with txOut := s.ports.txOut ++ [s.tx.pulseTrain] } := rfl
@[simp] theorem State.takePlayDone_env (s : State) : (s.takePlayDone).env = s.env := rfl

end Sys2Proof.Machine
end

