-- ==== Sys2Proof/Laws/Step.lean ====
section
/-! SUPPORT. What each shared operation, each agent's step and the machine's step can do: one lemma per
operation that says it once. -/

namespace Sys2Proof.Machine

/-! ### Commands -/

/-- A request either finds room and is accepted, or waits and changes nothing. -/
theorem State.requestOrWait_cases (s : State) (w : Word) :
    (s.hasRoom = true ∧ s.requestOrWait w = .next (s.acceptRequest w)) ∨
    (s.hasRoom = false ∧ s.requestOrWait w = .next s) := by
  unfold State.requestOrWait
  cases s.hasRoom <;> simp

/-- SETMODE arms a mode or, for MODE = 3, raises IllegalCommand. -/
theorem execSetmode_cases (m : BitVec 2) (s : State) :
    (∃ mode, ReceiveMode.ofBits m = some mode ∧ execSetmode m s = .next (s.setReceiveMode mode)) ∨
    (ReceiveMode.ofBits m = none ∧ execSetmode m s = .next (s.raise .illegalCommand)) := by
  unfold execSetmode
  cases ReceiveMode.ofBits m <;> simp

/-- The three commands: what `exec` can answer, for each. -/
theorem exec_cases (i : Instr) (s : State) :
    (∃ m mode, i = .setmode m ∧ ReceiveMode.ofBits m = some mode ∧
      exec i s = .next (s.setReceiveMode mode)) ∨
    (∃ m, i = .setmode m ∧ ReceiveMode.ofBits m = none ∧
      exec i s = .next (s.raise .illegalCommand)) ∨
    ((∀ m, i ≠ .setmode m) ∧ commandHeld i s = false ∧ s.hasRoom = true ∧
      exec i s = .next (s.acceptRequest (encode i))) ∨
    ((∀ m, i ≠ .setmode m) ∧ commandHeld i s = true ∧ s.hasRoom = false ∧ exec i s = .next s) := by
  cases i with
  | setmode m =>
    rcases execSetmode_cases m s with ⟨mode, h, e⟩ | ⟨h, e⟩
    · exact .inl ⟨m, mode, rfl, h, e⟩
    · exact .inr (.inl ⟨m, rfl, h, e⟩)
  | enqnec d c =>
    rcases s.requestOrWait_cases (encode (.enqnec d c)) with ⟨h, e⟩ | ⟨h, e⟩
    · exact .inr (.inr (.inl ⟨by simp, by simp [commandHeld, h], h, e⟩))
    · exact .inr (.inr (.inr ⟨by simp, by simp [commandHeld, h], h, e⟩))
  | enqrc6 m c f =>
    rcases s.requestOrWait_cases (encode (.enqrc6 m c f)) with ⟨h, e⟩ | ⟨h, e⟩
    · exact .inr (.inr (.inl ⟨by simp, by simp [commandHeld, h], h, e⟩))
    · exact .inr (.inr (.inr ⟨by simp, by simp [commandHeld, h], h, e⟩))

/-! ### The register window -/

/-- An access names CMD exactly when it is 4 bytes at `MMIO_BASE` (20 R45, R47). -/
theorem windowWritesCmd_iff (cfg : Config) (addr n : Nat) :
    windowWritesCmd cfg addr n = true ↔ n = 4 ∧ addr = cfg.mmioBase := by
  unfold windowWritesCmd windowTarget
  by_cases h : n = 4 ∧ cfg.mmioBase ≤ addr
  · obtain ⟨hn, ha⟩ := h
    obtain ⟨k, rfl⟩ := Nat.exists_eq_add_of_le ha
    simp only [hn, true_and, Nat.le_add_right, if_true, Nat.add_sub_cancel_left, decide_eq_true_eq]
    constructor
    · intro hk
      have := List.find?_some hk
      simp only [Reg.offset, beq_iff_eq] at this
      omega
    · intro hk
      have : k = 0 := by omega
      subst this
      rfl
  · simp only [h, if_false, reduceCtorEq, decide_false, Bool.false_eq_true, false_iff]
    omega

/-- What an access of HOST does, performed whole: a read that answers a value or a BusError, a refused
write, an illegal word, or a command's meaning (20 R49 to R51, 30 R68). -/
theorem State.takeHost_cases (s : State) :
    (s.env.host = [] ∧ s.takeHost = .next s) ∨
    (∃ addr n more v, s.env.host = .read addr n :: more ∧ s.memRead addr n = some v ∧
      s.takeHost = .next (s.answer (.value v))) ∨
    (∃ addr n more, s.env.host = .read addr n :: more ∧ s.memRead addr n = none ∧
      s.takeHost = .next (s.answer (.busError addr n .read))) ∨
    (∃ addr n w more, s.env.host = .write addr n w :: more ∧ ¬(n = 4 ∧ addr = s.cfg.mmioBase) ∧
      s.takeHost = .next (s.answer (.busError addr n .write))) ∨
    (∃ w more why, s.env.host = .write s.cfg.mmioBase 4 w :: more ∧ decode w = .illegal why ∧
      s.takeHost = .next ((s.answer .done).raise .illegalCommand)) ∨
    (∃ w more i, s.env.host = .write s.cfg.mmioBase 4 w :: more ∧ decode w = .command i ∧
      s.takeHost = exec i (s.answer .done)) := by
  unfold State.takeHost
  split
  case h_1 h => exact .inl ⟨h, rfl⟩
  case h_2 addr n more h =>
    cases hv : s.memRead addr n with
    | none => exact .inr (.inr (.inl ⟨addr, n, more, h, hv, by simp [State.hostRead, hv, State.raise]⟩))
    | some v => exact .inr (.inl ⟨addr, n, more, v, h, hv, by simp [State.hostRead, hv]⟩)
  case h_3 addr n w more h =>
    by_cases hw : windowWritesCmd s.cfg addr n = true
    · obtain ⟨rfl, rfl⟩ := (windowWritesCmd_iff _ _ _).1 hw
      cases hd : decode w with
      | illegal why =>
        exact .inr (.inr (.inr (.inr (.inl ⟨w, more, why, h, hd, by
          simp [State.hostWrite, hw, State.hostCommand, hd]⟩))))
      | command i =>
        exact .inr (.inr (.inr (.inr (.inr ⟨w, more, i, h, hd, by
          simp [State.hostWrite, hw, State.hostCommand, hd]⟩))))
    · refine .inr (.inr (.inr (.inl ⟨addr, n, w, more, h, ?_, by simp [State.hostWrite, hw, State.raise]⟩)))
      rwa [← windowWritesCmd_iff]

/-- HOST's step is enabled exactly when its next access exists and is not held. -/
theorem State.hostEnabled_iff (s : State) :
    s.hostEnabled = true ↔ ∃ a more, s.env.host = a :: more ∧ s.accessHeld a = false := by
  unfold State.hostEnabled
  cases s.env.host <;> simp

/-- A write of a command's word to CMD is held exactly when the command is. -/
theorem State.accessHeld_command (s : State) (w : Word) (i : Instr) (h : decode w = .command i) :
    s.accessHeld (.write s.cfg.mmioBase 4 w) = commandHeld i s := by
  simp [State.accessHeld, (windowWritesCmd_iff _ _ _).2, h]

/-- What a HOST step can do to the block: nothing (a read, a BusError), an illegal word's two fields, a
mode armed, or a request accepted. Its frame: the parts of the block it leaves. -/
theorem State.takeHost_effect (s t : State) (he : s.hostEnabled = true) (h : s.takeHost = .next t) :
    ∃ a, (t = s.answer a) ∨ (t = (s.answer a).raise .illegalCommand) ∨
      (∃ w more m mode, s.env.host = .write s.cfg.mmioBase 4 w :: more ∧ decode w = .command (.setmode m) ∧
        ReceiveMode.ofBits m = some mode ∧ t = (s.answer a).setReceiveMode mode) ∨
      (∃ w more i, s.env.host = .write s.cfg.mmioBase 4 w :: more ∧ decode w = .command i ∧
        (∀ m, i ≠ .setmode m) ∧ s.hasRoom = true ∧ t = (s.answer a).acceptRequest (encode i)) := by
  rcases s.takeHost_cases with ⟨h0, e⟩ | ⟨addr, n, more, v, h0, _, e⟩ | ⟨addr, n, more, h0, _, e⟩ |
    ⟨addr, n, w, more, h0, _, e⟩ | ⟨w, more, why, h0, _, e⟩ | ⟨w, more, i, h0, hd, e⟩
  · simp [State.hostEnabled, h0] at he
  · exact ⟨_, .inl (by rw [e] at h; exact (Host.Outcome.next.inj h).symm)⟩
  · exact ⟨_, .inl (by rw [e] at h; exact (Host.Outcome.next.inj h).symm)⟩
  · exact ⟨_, .inl (by rw [e] at h; exact (Host.Outcome.next.inj h).symm)⟩
  · exact ⟨_, .inr (.inl (by rw [e] at h; exact (Host.Outcome.next.inj h).symm))⟩
  · rw [e] at h
    have hh : commandHeld i s = false := by
      have := he
      rw [State.hostEnabled, h0] at this
      simpa [State.accessHeld_command s w i hd] using this
    rcases exec_cases i (s.answer .done) with ⟨m, mode, rfl, hm, e'⟩ | ⟨m, rfl, hm, e'⟩ |
      ⟨hn, _, hr, e'⟩ | ⟨hn, hc, hr, e'⟩
    · exact ⟨.done, .inr (.inr (.inl ⟨w, more, m, mode, h0, hd, hm, by
        rw [e'] at h; exact (Host.Outcome.next.inj h).symm⟩))⟩
    · exact ⟨.done, .inr (.inl (by rw [e'] at h; exact (Host.Outcome.next.inj h).symm))⟩
    · exact ⟨.done, .inr (.inr (.inr ⟨w, more, i, h0, hd, hn, hr, by
        rw [e'] at h; exact (Host.Outcome.next.inj h).symm⟩))⟩
    · have : commandHeld i (s.answer .done) = commandHeld i s := rfl
      rw [this, hh] at hc
      cases hc

/-! ### The agents -/

/-- EDGE(t) records, with or without arming the timer, or only moves the time (41 R77 to R79). -/
theorem Receiver.edge_cases (cfg : Config) (t : Nat) (r : Receiver) :
    (r.rxMode ≠ .idle ∧ r.rxIndex < cap r.rxMode ∧ r.rxIndex = 0 ∧
      r.edge cfg t = ((r.atTime t).armTimer (t + timeout cfg r.rxMode)).store t) ∨
    (r.rxMode ≠ .idle ∧ r.rxIndex < cap r.rxMode ∧ r.rxIndex ≠ 0 ∧ r.edge cfg t = (r.atTime t).store t) ∨
    ((r.rxMode = .idle ∨ cap r.rxMode ≤ r.rxIndex) ∧ r.edge cfg t = r.atTime t) := by
  unfold Receiver.edge
  by_cases h : r.records = true
  · have h' := h
    simp only [Receiver.records, Bool.and_eq_true, decide_eq_true_eq] at h'
    by_cases h0 : r.rxIndex = 0
    · exact .inl ⟨h'.1, h'.2, h0, by rw [if_pos h, if_pos h0]⟩
    · exact .inr (.inl ⟨h'.1, h'.2, h0, by rw [if_pos h, if_neg h0]⟩)
  · have h' := h
    simp only [Receiver.records, Bool.and_eq_true, decide_eq_true_eq, not_and_or, not_not, not_lt] at h'
    exact .inr (.inr ⟨h', by rw [if_neg h]⟩)

/-- EDGE(t) is enabled as 41 R78 states. -/
theorem Receiver.edgeEnabled_iff (r : Receiver) (t : Nat) :
    r.edgeEnabled t = true ↔ r.clkUs ≤ t ∧ (r.frameActive = false ∨ t ≤ r.deadline) := by
  simp [Receiver.edgeEnabled]

/-- The largest capacity is the buffer's size (10 R19, R42). -/
theorem cap_le_slots (m : ReceiveMode) : cap m ≤ edgeBufSlots := by
  cases m <;> decide

/-- IDLE_FIRE delivers a message or records a failure, of the mode's decoder (41 R80, R84, R85). -/
theorem State.takeIdleFire_cases (s : State) :
    (∃ m, s.rx.decodeFrame s.cfg = .ok m ∧
      s.takeIdleFire = State.deliver m { s with rx := (s.rx.atTime s.rx.deadline).disarm }) ∨
    (∃ e, s.rx.decodeFrame s.cfg = .fail e ∧
      s.takeIdleFire = State.raise (.decode e) { s with rx := (s.rx.atTime s.rx.deadline).disarm }) := by
  unfold State.takeIdleFire State.recordDecode
  cases h : s.rx.decodeFrame s.cfg with
  | ok m => exact .inl ⟨m, rfl, rfl⟩
  | fail e => exact .inr ⟨e, rfl, rfl⟩

/-- DISPATCH is enabled iff READY with a request queued (45 R133). -/
theorem Transmitter.dispatchEnabled_iff (t : Transmitter) :
    t.dispatchEnabled = true ↔ t.dispState = .ready ∧ ∃ w q, t.txq = w :: q := by
  unfold Transmitter.dispatchEnabled
  cases t.txq <;> simp

/-- What an enabled DISPATCH does, for each outcome of the trigger (45 R133, R134). -/
theorem State.takeDispatch_cases (s : State) (o : Trigger) (w : Word) (q : List Word)
    (h : s.tx.txq = w :: q) :
    (o = .ok ∧ s.takeDispatch o = { s with
      tx := (s.tx.pop w q (!isNecRequest w)).start (encodeRequest w s.tx.toggle) }) ∨
    (o = .fail ∧ s.takeDispatch o =
      State.raise (.queueDispatchFailure w) { s with tx := s.tx.pop w q (!isNecRequest w) }) := by
  cases o
  · exact .inl ⟨rfl, by simp [State.takeDispatch, h, State.trigger]⟩
  · exact .inr ⟨rfl, by simp [State.takeDispatch, h, State.trigger]⟩

/-! ### The step -/

/-- Everything a step can do: no entry in the schedule, a disabled entry, or an enabled one's step. -/
theorem step_cases {s t : State} (h : step s = .next t) :
    (s.env.sched = [] ∧ t = s) ∨
    ∃ e rest, s.env.sched = e :: rest ∧
      ((Event.enabled (s.afterEvent rest) e = false ∧ t = s.afterEvent rest) ∨
       (Event.enabled (s.afterEvent rest) e = true ∧ e.take (s.afterEvent rest) = .next t)) := by
  unfold step State.stepSchedule at h
  cases hs : s.env.sched with
  | nil =>
    rw [hs] at h
    exact .inl ⟨rfl, (Host.Outcome.next.inj h).symm⟩
  | cons e rest =>
    rw [hs] at h
    refine .inr ⟨e, rest, rfl, ?_⟩
    simp only [Event.step] at h
    cases he : Event.enabled (s.afterEvent rest) e with
    | false => rw [he] at h; exact .inl ⟨rfl, (Host.Outcome.next.inj h).symm⟩
    | true => rw [he] at h; exact .inr ⟨rfl, h⟩

/-- A step on a schedule whose head is `e` is the event's step on the rest. -/
theorem step_of_sched {s : State} {e : Event} {rest : List Event} (h : s.env.sched = e :: rest) :
    step s = e.step (s.afterEvent rest) := by
  simp [step, State.stepSchedule, h]

/-- An enabled event's step is what it takes; a disabled one leaves the state. -/
theorem Event.step_of_enabled {s : State} {e : Event} (h : e.enabled s = true) : e.step s = e.take s := by
  simp [Event.step, h]

theorem Event.step_of_disabled {s : State} {e : Event} (h : e.enabled s = false) : e.step s = .next s := by
  simp [Event.step, h]

/-- No event's step touches the schedule: `stepSchedule` alone consumes it. -/
theorem Event.take_sched {s t : State} {e : Event} (he : e.enabled s = true) (h : e.take s = .next t) :
    t.env.sched = s.env.sched := by
  cases e with
  | host =>
    obtain ⟨a, rfl | rfl | ⟨_, _, _, _, _, _, _, rfl⟩ | ⟨_, _, _, _, _, _, _, rfl⟩⟩ :=
      State.takeHost_effect s t he h <;> rfl
  | edge x => cases h; rfl
  | idleFire =>
    cases h
    rcases s.takeIdleFire_cases with ⟨m, _, e⟩ | ⟨m, _, e⟩ <;> rw [e] <;> rfl
  | dispatch o =>
    cases h
    obtain ⟨_, w, q, hq⟩ := (Transmitter.dispatchEnabled_iff _).1 he
    rcases s.takeDispatch_cases o w q hq with ⟨_, e⟩ | ⟨_, e⟩
    · rw [e]
    · rw [e]; rfl
  | playDone => cases h; rfl
  | reset => cases h; rfl

/-- After a step on a schedule `e :: rest`, the schedule is `rest`. -/
theorem step_sched {s t : State} {e : Event} {rest : List Event} (hs : s.env.sched = e :: rest)
    (h : step s = .next t) : t.env.sched = rest := by
  rw [step_of_sched hs] at h
  cases he : e.enabled (s.afterEvent rest) with
  | false =>
    rw [Event.step_of_disabled he] at h
    cases h
    rfl
  | true =>
    rw [Event.step_of_enabled he] at h
    exact Event.take_sched he h

end Sys2Proof.Machine
end

