-- ==== Sys2Proof/Tests/Slice0.lean ====
section
/-! SUPPORT. Tests with the expected results of 95_test_vectors.md and of the rules' own examples, and
for every obligation with hypotheses a witness that they can be met together. -/

namespace Sys2Proof.Machine

/-- What a state observed after an outcome shows, if there is one. -/
def seen {α : Type} (r : Result) (f : State → α) : Option α :=
  match r with
  | .next s => some (f s)
  | _ => none

/-- The reset state with a schedule and a HOST program. -/
def world (sched : List Event) (host : List HostAccess) : State :=
  { State.reset with env := { sched := sched, host := host, replies := [] } }

/-- NEC armed with one edge recorded at 1000 µs (95 section 2.3). -/
def necOneEdge : State :=
  { State.reset with
    rx := { State.reset.rx with
      rxMode := .nec, edgeBuf := (Vector.replicate edgeBufSlots 0).set 0 1000
      rxIndex := 1, frameActive := true, deadline := 81000, clkUs := 1000 } }

/-- READY with these requests queued. -/
def queued (ws : List Word) : State :=
  { State.reset with
    tx := { State.reset.tx with txq := ws, txEnqCount := BitVec.ofNat 32 ws.length } }

/-- BUSY playing `p` for the request `w`. -/
def playing (w : Word) (p : PulseTrain) : State :=
  { State.reset with
    tx := { State.reset.tx with
      dispState := .busy, pulseTrain := p, txCur := w, txEnqCount := 1, txPopCount := 1 } }

/-- DEAD with these requests queued and toggle 1 (95 section 2.9). -/
def dead (ws : List Word) : State :=
  { State.reset with tx := { State.reset.tx with dispState := .dead, toggle := true, txq := ws } }

/-- A state with another schedule and HOST program. -/
def State.inWorld (s : State) (sched : List Event) (host : List HostAccess) : State :=
  { s with env := { sched := sched, host := host, replies := [] } }

/-! ### Well-formedness -/

/-- 30 R63: MODE = 3 is refused. -/
theorem test_setmode3_illFormed : (Instr.setmode 3).wellFormed = false := by decide

theorem test_setmode2_wellFormed : (Instr.setmode 2).wellFormed = true := by decide

/-- 00_scope.md section 4: a FIFO depth of 0, a depth of 256, a timeout of 0, one of 2^32 and an
unaligned base are refused; the nominal record is not. -/
theorem test_config_bounds :
    ¬({ Config.nominal with txqDepth := 0 } : Config).Valid ∧
    ¬({ Config.nominal with txqDepth := 256 } : Config).Valid ∧
    ¬({ Config.nominal with necIdleTimeoutUs := 0 } : Config).Valid ∧
    ¬({ Config.nominal with rc6IdleTimeoutUs := 2 ^ 32 } : Config).Valid ∧
    ¬({ Config.nominal with mmioBase := 4 } : Config).Valid ∧ Config.nominal.Valid := by decide

/-! ### Decode: words written out from 30 R63 to R65 -/

/-- Format S: OP 0001, bits 27:2 zero, MODE 10. -/
theorem test_decode_setmode_bits :
    decode 0b00010000000000000000000000000010#32 = .command (.setmode 2) := by decide

/-- Format N: OP 0010, bits 27:16 zero, DEV 00000100, CMDB 00001000. -/
theorem test_decode_enqnec_bits :
    decode 0b00100000000000000000010000001000#32 = .command (.enqnec 4 8) := by decide

/-- Format R: OP 0011, bits 27:19 zero, MODE 111, CTRL 01010101, INFO 00110100. -/
theorem test_decode_enqrc6_bits :
    decode 0b00110000000001110101010100110100#32 = .command (.enqrc6 7 0x55 0x34) := by decide

/-- The illegal words of 95 section 2.1. -/
theorem test_decode_illegal :
    decode 0x10000003#32 = .illegal .setmodeModeThree ∧
    decode 0x10000004#32 = .illegal .setmodeZeroField ∧
    decode 0x18000001#32 = .illegal .setmodeZeroField ∧
    decode 0x20010000#32 = .illegal .enqnecZeroField ∧
    decode 0x30080000#32 = .illegal .enqrc6ZeroField ∧
    decode 0x38000000#32 = .illegal .enqrc6ZeroField ∧
    decode 0x00000000#32 = .illegal .unknownOp ∧
    decode 0xFFFFFFFF#32 = .illegal .unknownOp := by decide

theorem test_decode_wrong_length : decodeBytes [0x10#8, 0#8] = .illegal .wrongLength := by decide

theorem test_decodeTableWord :
    decodeTableWord 32 0x10000000 = some (.setmode 0) ∧
    decodeTableWord 32 0x20000000 = some (.enqnec 0 0) ∧
    decodeTableWord 32 0x30000000 = some (.enqrc6 0 0 0) := by decide

/-! ### One step of each instruction, as the first after reset -/

/-- 41 R74: STATUS reads 1 after SETMODE NEC. -/
theorem test_step_setmode :
    seen (step (State.reset.withFetchWord 32 0x10000001)) (fun s => (s.status, s.env.host, s.env.sched)) =
      some (1#32, [], []) := by decide

/-- The example of 41 R74: NEC with a frame in progress to RC6, the frame discarded. -/
theorem test_setmode_discards :
    seen (exec (.setmode 2) necOneEdge)
      (fun s => (s.rx.rxMode, s.rx.rxIndex, s.rx.frameActive, s.rx.rxResult, s.ports.logOut)) =
      some (.rc6, 0, false, 0, []) := by decide

/-- The example of 45 R129. -/
theorem test_step_enqnec :
    seen (step (State.reset.withFetchWord 32 0x20000408)) (fun s => (s.tx.txq, s.tx.txEnqCount, s.status)) =
      some ([0x20000408#32], 1, 0x00010000#32) := by decide

/-- 95 section 2.8: the counter wraps. -/
theorem test_enqnec_counter_wraps :
    seen (exec (.enqnec 1 1) { State.reset with tx := { State.reset.tx with txEnqCount := 0xFFFFFFFF } })
      (fun s => s.tx.txEnqCount) = some 0 := by decide

/-- The example of 45 R130. -/
theorem test_step_enqrc6 :
    seen (step (State.reset.withFetchWord 32 0x30001234)) (fun s => (s.tx.txq, s.tx.toggle)) =
      some ([0x30001234#32], false) := by decide

/-- 45 R141: a DEAD dispatcher's FIFO still accepts. -/
theorem test_enqrc6_when_dead :
    seen (exec (.enqrc6 7 0x55 0x55) (dead [])) (fun s => (s.tx.txq, s.tx.dispState)) =
      some ([0x30075555#32], .dead) := by decide

/-- The example of 30 R68. -/
theorem test_step_illegal :
    seen (step (State.reset.withFetchWord 32 0x10000003)) (fun s => (s.status, s.cmd.illegalCount)) =
      some (0x20#32, 1) := by decide

/-! ### The register window (95 section 2.2) -/

theorem test_bus_errors :
    State.reset.memRead 0x00 4 = none ∧ State.reset.memRead 0x06 4 = none ∧
    State.reset.memRead 0x2C 4 = none ∧ State.reset.memRead 0x04 2 = none ∧
    State.reset.memRead 0x04 4 = some 0 ∧ windowWritesCmd Config.nominal 4 4 = false ∧
    windowWritesCmd Config.nominal 0 2 = false := by decide

theorem test_status_words :
    { necOneEdge with rx := { necOneEdge.rx with rxIndex := 67 } }.status = 0x00004305#32 ∧
    { necOneEdge with rx := { necOneEdge.rx with rxMode := .rc6, rxIndex := 28 } }.status = 0x00001C06#32 ∧
    (dead [0x20000304#32, 0x20000506#32]).status = 0x00020050#32 := by decide

/-! ### Events (95 sections 2.3, 2.8, 2.9) -/

/-- The example of 41 R78. -/
theorem test_first_edge :
    ({ State.reset with rx := { State.reset.rx with rxMode := .nec } }.takeEdge 1000).rx = necOneEdge.rx := by
  decide

theorem test_edge_after_deadline_not_enabled :
    Event.enabled necOneEdge (.edge 81001) = false ∧ Event.enabled necOneEdge (.edge 81000) = true := by decide

theorem test_fire_one_edge :
    (necOneEdge.takeIdleFire.rx.rxResult, necOneEdge.takeIdleFire.rx.rxFailCount,
      necOneEdge.takeIdleFire.rx.rxIndex, necOneEdge.takeIdleFire.rx.clkUs,
      necOneEdge.takeIdleFire.ports.logOut) = (3, 1, 0, 81000, [.decode .protocolMismatch]) := by decide

theorem test_dispatch_fail_flips_toggle :
    let s := (dead [0x30001234#32]).applyReset
    let u := { s with tx := { s.tx with toggle := true, txq := [0x30001234#32] } }.takeDispatch .fail
    (u.tx.dispState, u.tx.toggle, u.tx.txCur, u.tx.pulseTrain, u.ports.logOut) =
      (.dead, false, 0x30001234#32, [], [.queueDispatchFailure 0x30001234#32]) := by decide

theorem test_play_done :
    let u := (playing 0x20000408#32 [18000, 9000]).takePlayDone
    (u.tx.dispState, u.tx.txDoneCount, u.tx.txCur, u.ports.txOut) = (.ready, 1, 0, [[18000, 9000]]) := by decide

/-! ### Codec vectors (95 sections 1, 2.6, 2.7) -/

theorem test_nec_train :
    (necEncode 0x04 0x08).take 14 =
      [18000, 9000, 1125, 1125, 1125, 1125, 1125, 1125, 1125, 1125, 1125, 1125, 1125, 3375] := by decide

/-- 95 section 2.7, in units of T. -/
theorem test_rc6_train :
    rc6Encode 0 true 0x12 0x34 =
      [6, 2, 1, 3, 2, 2, 2, 2, 4, 3, 1, 1, 1, 1, 2, 2, 1, 1, 2, 2, 1, 1, 1, 1, 2, 1, 1, 2, 2, 2, 1, 1, 1,
        6].map (· * 888) := by decide

/-- 95 section 2.6. -/
theorem test_rdiv :
    [221, 222, 665, 666, 1110, 2886].map (rdiv .up) = [0, 1, 1, 2, 3, 7] ∧
    [221, 222, 665, 666, 1110, 2886].map (rdiv .even) = [0, 0, 1, 2, 2, 6] := by decide

/-- 95 E1: the 67 captured edges of NEC 4, 8. -/
theorem test_nec_decode_E1 : necDecode (samples (captured (necEncode 4 8) 67)) = .ok (.nec 4 8) := by
  decide +kernel

/-- 95 section 2.6: the base frame, and the same cut at 28 edges; (0, 0x12, 0x34) does not survive the cut. -/
theorem test_rc6_decode_base :
    rc6Decode .up (samples (edges (rc6Encode 0 false 0x55 0x55))) = .ok (.rc6 0 0x55 0x55) ∧
    rc6Decode .up (samples (captured (rc6Encode 0 false 0x55 0x55) 28)) = .ok (.rc6 0 0x55 0x55) ∧
    rc6Decode .up (samples (captured (rc6Encode 0 false 0x12 0x34) 28)) = .fail .malformedSymbol := by
  decide +kernel

/-! ### Witnesses: the hypotheses of each obligation that has some can be met together -/

/-- A full FIFO of the nominal depth 4. -/
def full : State := queued [0x20000001#32, 0x20000002#32, 0x20000003#32, 0x30000004#32]

/-- NEC armed with two edges recorded, at 1000 and 10000 µs. -/
def necTwoEdges : State := necOneEdge.takeEdge 10000

/-- The edges of NEC 4, 8 as the capture unit stores them (95 E1). -/
def necFrame : List Timestamp := samples (captured (necEncode 4 8) 67)

theorem necOneEdge_inv : necOneEdge.Inv := by
  refine ⟨by decide, by constructor <;> decide, ⟨by decide, by decide, by decide, by decide, by decide, ?_,
    by decide, by decide⟩⟩
  exact List.forall_mem_nil _

theorem reset_inv : State.reset.Inv := by
  refine ⟨by decide, by constructor <;> decide, ⟨by decide, by decide, by decide, by decide, by decide, ?_,
    by decide, by decide⟩⟩
  exact List.forall_mem_nil _

theorem full_inv : full.Inv := by
  refine ⟨by decide, by constructor <;> decide, ⟨by decide, by decide, by decide, by decide, by decide, ?_,
    by decide, by decide⟩⟩
  intro w hw
  simp only [full, queued, List.mem_cons, List.not_mem_nil, or_false] at hw
  rcases hw with rfl | rfl | rfl | rfl <;> decide

theorem necTwoEdges_times : necTwoEdges.rx.FrameTimes necTwoEdges.cfg [1000, 10000] := by
  constructor <;> decide +kernel

theorem witness_DecodeOfEncodeIsTheCommand :
    (Instr.enqrc6 7 0xFF 0).wellFormed = true ∧ (Instr.setmode 2).wellFormed = true := by decide

theorem witness_CommandWordIsUnique : decode 0x30075555#32 = .command (.enqrc6 7 0x55 0x55) := by decide

theorem witness_IllegalWordsExactly : decode 0x30080000#32 = .illegal .enqrc6ZeroField := by decide

theorem witness_OpcodeTableAndDecoderAgree :
    decode 0x2000FFFF#32 = .command (.enqnec 255 255) ∧
    ∃ r ∈ opcodeTable, r.covers 0x10000003#32 = true := by decide

theorem witness_StepRunsTheDecodedCommand :
    ((world [.host] [.write 0 4 0x20000408]).env.sched = [.host] ∧
      (world [.host] [.write 0 4 0x20000408]).env.host = [.write Config.nominal.mmioBase 4 0x20000408]) ∧
    decode 0x20000408#32 = .command (.enqnec 4 8) ∧
    commandHeld (.enqnec 4 8) State.reset = false ∧ commandHeld (.enqnec 4 8) full = true ∧
    decodeTableWord 32 0x20000408 = some (.enqnec 4 8) := by decide

theorem witness_IllegalWordSetsOnlyItsTwoFields :
    (world [.host] [.write 0 4 0]).env.host = [.write Config.nominal.mmioBase 4 0] ∧
    decode 0#32 = .illegal .unknownOp ∧ decode 0x10000001#32 = .command (.setmode 1) ∧
    commandHeld (.setmode 1) State.reset = false := by decide

/-- Each of the five conditions, the first and last at the boundary of the window. -/
theorem witness_BusErrorHasNoEffect :
    let s := { world [.host] [.read 0x2C 4] with cfg := { Config.nominal with mmioBase := 0x100 } }
    s.env.sched = [.host] ∧ s.env.host = [.read 0x2C 4] ∧ 0xFF < s.cfg.mmioBase ∧
    (0x106 - s.cfg.mmioBase) % 4 ≠ 0 ∧ 0x28 < 0x12C - s.cfg.mmioBase ∧ 0x100 = s.cfg.mmioBase ∧
    0x104 ≠ s.cfg.mmioBase := by decide

theorem witness_ReadAnswersTheLiveValueAndChangesNothing :
    let s := world [.host] [.read 0x28 4]
    (0x28, s.cmd.illegalCount) ∈ [(0x04, s.status), (0x28, s.cmd.illegalCount)] ∧
    s.env.sched = [.host] ∧ s.env.host = [.read (s.cfg.mmioBase + 0x28) 4] := by decide

theorem witness_StatusFieldsAreLiveViews :
    necOneEdge.rx.rxIndex < 2 ^ 7 ∧ full.tx.txq.length < 2 ^ 8 := by decide

theorem witness_SetmodeTearsDownAndArms : State.reset.Inv ∧ State.reset.rx.rxMode = .idle :=
  ⟨reset_inv, by decide⟩

theorem witness_ReceiveModeChangesOnlyBySetmodeOrReset :
    (∃ t, step (world [.host] [.write 0 4 0x10000001]) = .next t ∧ t.rx.rxMode ≠ .idle) ∧
    ∃ t, step (necOneEdge.inWorld [.reset] []) = .next t ∧ t.rx.rxMode ≠ necOneEdge.rx.rxMode :=
  ⟨⟨_, rfl, by decide⟩, ⟨_, rfl, by decide⟩⟩

theorem witness_BufferIndexIsResetInThreePlaces :
    (∃ t, step (necOneEdge.inWorld [.idleFire] []) = .next t ∧ t.rx.rxIndex = 0) ∧
    ∃ t, step (necOneEdge.inWorld [.edge 81000] []) = .next t ∧ t.rx.rxIndex = 2 :=
  ⟨⟨_, rfl, by decide⟩, ⟨_, rfl, by decide⟩⟩

/-- At the boundary: one place left. -/
theorem witness_EnqnecAppendsItsWord :
    (queued [0x20000001#32, 0x20000002#32, 0x20000003#32]).tx.txq.length < Config.nominal.txqDepth := by
  decide

theorem witness_Enqrc6AppendsItsWord : State.reset.tx.txq.length < State.reset.cfg.txqDepth := by decide

theorem witness_EnqOnAFullFifoWaits :
    full.tx.txq.length = full.cfg.txqDepth ∧ full.tx.dispState = .ready ∧ 0 < full.cfg.txqDepth ∧
    decode 0#32 = .illegal .unknownOp := by decide

/-- Disabled on either side of the frame's window; ignored in Idle; dropped at capacity; first edge and
later edge, both at the boundary of the window. -/
theorem witness_EdgeRecordsOrOnlyMovesTime :
    ¬(necOneEdge.rx.clkUs ≤ 999 ∧ (necOneEdge.rx.frameActive = false ∨ 999 ≤ necOneEdge.rx.deadline)) ∧
    ¬(necOneEdge.rx.frameActive = false ∨ 81001 ≤ necOneEdge.rx.deadline) ∧
    (State.reset.rx.clkUs ≤ 0 ∧ State.reset.rx.frameActive = false ∧ State.reset.rx.rxMode = .idle) ∧
    (necOneEdge.rx.clkUs ≤ 1000 ∧ 81000 ≤ necOneEdge.rx.deadline ∧ necOneEdge.rx.rxMode ≠ .idle ∧
      necOneEdge.rx.rxIndex < cap necOneEdge.rx.rxMode) ∧
    cap .nec ≤ ({ necOneEdge.rx with rxIndex := 67 } : Receiver).rxIndex ∧
    ({ necOneEdge.rx with rxIndex := 0 } : Receiver).rxIndex < cap .nec := by decide

theorem witness_IdleFireDecodesTheSnapshot :
    (necOneEdge.inWorld [.idleFire] []).env.sched = [.idleFire] ∧ necOneEdge.rx.frameActive = true ∧
    necDecode (necOneEdge.rx.edgeBuf.toList.take 1) = .fail .protocolMismatch ∧
    State.reset.rx.frameActive = false := by decide

theorem witness_EdgeAtTheDeadlineMayGoEitherWay : necOneEdge.Inv ∧ necOneEdge.rx.frameActive = true :=
  ⟨necOneEdge_inv, by decide⟩

theorem witness_ModularDifferencesAreTrueDifferences :
    necTwoEdges.cfg.Valid ∧ necTwoEdges.rx.FrameTimes necTwoEdges.cfg [1000, 10000] ∧
    necTwoEdges.rx.clkUs ≤ necTwoEdges.rx.deadline :=
  ⟨by decide, necTwoEdges_times, by decide⟩

theorem witness_StepKeepsTrueFrameTimes :
    necOneEdge.Inv ∧ (∃ ts, necOneEdge.rx.FrameTimes necOneEdge.cfg ts) ∧ ∃ t, step necOneEdge = .next t := by
  refine ⟨necOneEdge_inv, ⟨[1000], ?_⟩, ⟨_, rfl⟩⟩
  constructor <;> decide

/-- A good frame, a frame with a bad check byte (95 E2), and a frame of 66 edges (95 section 2.5). -/
theorem witness_NecDecodeFirstFailingStepDecides :
    (67 ≤ necFrame.length ∧ necLeaderOk necFrame = true ∧ (∀ k < 32, necMarkOk necFrame k = true)) ∧
    necDecode necFrame = .ok (.nec 4 8) ∧
    necDecode (samples (captured ([18000, 9000] ++ necByteTrain 0x04 ++ necByteTrain 0xFE ++
      necByteTrain 0x08 ++ necByteTrain 0xF7 ++ [1125]) 67)) = .fail .checksumFailure ∧
    necDecode (necFrame.take 66) = .fail .malformedSymbol := by decide +kernel

theorem witness_NecDecodeReadsOnly67Edges : necFrame.length = 67 := by decide

/-- The samples of a train's edges, as a receiver that hears all of it stores them. -/
def heard (p : PulseTrain) : List Timestamp := samples (edges p)

/-- The unit counts that 43 R101 gives a buffer, ties up. -/
def unitCounts (S : List Timestamp) (i : Nat) : Nat :=
  rdiv .up (((S.getD i 0).toNat + 2 ^ 32 - (S.getD (i - 1) 0).toNat) % 2 ^ 32)

/-- The buffer meets the framing checks of 43 R102 to R104. -/
abbrev Framed (S : List Timestamp) : Prop :=
  4 ≤ S.length ∧ (2220 < dur S 1 ∧ dur S 1 < 3108 ∧ 444 < dur S 2 ∧ dur S 2 < 1332) ∧ unitCounts S 3 = 1

/-- Bit `k` of a list of bits. -/
def bitOf (bs : List Bool) (k : Nat) : Bool := bs.getD k false

/-- Where bit `k` of a stream begins: two durations for a bit equal to the one before it, else one. -/
def beginOf (bs : List Bool) (k : Nat) : Nat :=
  4 + ((List.range k).map fun j => if bitOf bs j = rc6Before (bitOf bs) j then 2 else 1).sum

/-- The train of mode `m`, toggle 0, control 0x12, information 0x34, less its last half and its silence, and
with other ends: the encoder's own ends are 1 and 6 units. -/
def rc6Ending (m : BitVec 3) (ends : List Nat) : PulseTrain :=
  (rc6Encode m false 0x12 0x34).dropLast.dropLast ++ ends.map (· * 888)

/-- A buffer read as the 20 bits of `rc6Ending`. -/
abbrev ReadAsSent (m : BitVec 3) (ends : List Nat) : Prop :=
  Framed (heard (rc6Ending m ends)) ∧
  Rc6Reading (unitCounts (heard (rc6Ending m ends))) (heard (rc6Ending m ends)).length
    (bitOf (rc6BitStream m false 0x12 0x34)) (beginOf (rc6BitStream m false 0x12 0x34))

theorem sent_mode0_is_read (ends : List Nat) (h : ends ∈ [[], [1], [2], [1, 6], [1, 5]]) : ReadAsSent 0 ends := by
  fin_cases h <;> exact ⟨by decide +kernel, by constructor <;> decide +kernel⟩

theorem sent_mode1_is_read (ends : List Nat) (h : ends ∈ [[1, 6], [1, 5]]) : ReadAsSent 1 ends := by
  fin_cases h <;> exact ⟨by decide +kernel, by constructor <;> decide +kernel⟩

/-- No reading: the buffer of exactly the leader and the start bit (43 R108's example). Readings: no
duration left after bit 19; a last half of 1 unit and no gap, or of 2 units; gaps of 6 and of 5 units; and
the same two gaps in mode 1, of which only the good one gets to the mode check (43 R113). -/
theorem witness_Rc6DecodeFirstFailingStepDecides :
    (Framed (heard [6 * 888, 2 * 888, 888]) ∧
      (∀ b p, ¬Rc6Reading (unitCounts (heard [6 * 888, 2 * 888, 888])) 4 b p) ∧
      rc6Decode .up (heard [6 * 888, 2 * 888, 888]) = .fail .malformedSymbol) ∧
    (ReadAsSent 0 [] ∧ rc6Decode .up (heard (rc6Ending 0 [])) = .ok (.rc6 0 0x12 0x34)) ∧
    (ReadAsSent 0 [1] ∧ rc6Decode .up (heard (rc6Ending 0 [1])) = .ok (.rc6 0 0x12 0x34)) ∧
    (ReadAsSent 0 [2] ∧ rc6Decode .up (heard (rc6Ending 0 [2])) = .fail .malformedSymbol) ∧
    (ReadAsSent 0 [1, 6] ∧ rc6Decode .up (heard (rc6Ending 0 [1, 6])) = .ok (.rc6 0 0x12 0x34)) ∧
    (ReadAsSent 0 [1, 5] ∧ rc6Decode .up (heard (rc6Ending 0 [1, 5])) = .fail .malformedSymbol) ∧
    (ReadAsSent 1 [1, 6] ∧ rc6Decode .up (heard (rc6Ending 1 [1, 6])) = .fail .unsupportedMode) ∧
    (ReadAsSent 1 [1, 5] ∧ rc6Decode .up (heard (rc6Ending 1 [1, 5])) = .fail .malformedSymbol) := by
  refine ⟨⟨by decide +kernel, fun b p h => ?_, by decide +kernel⟩,
    ⟨sent_mode0_is_read _ (by simp), by decide +kernel⟩, ⟨sent_mode0_is_read _ (by simp), by decide +kernel⟩,
    ⟨sent_mode0_is_read _ (by simp), by decide +kernel⟩, ⟨sent_mode0_is_read _ (by simp), by decide +kernel⟩,
    ⟨sent_mode0_is_read _ (by simp), by decide +kernel⟩, ⟨sent_mode1_is_read _ (by simp), by decide +kernel⟩,
    ⟨sent_mode1_is_read _ (by simp), by decide +kernel⟩⟩
  have h0 := h.start
  have h1 := h.next 0 (by omega)
  have h2 := h.inside 0 (by omega)
  split at h1 <;> omega

theorem witness_Rc6OtherModesAreUnsupported : (1 : BitVec 3) ≠ 0 := by decide

theorem witness_DecodersGiveOnlyTheirOwnResults :
    necDecode necFrame = .ok (.nec 4 8) ∧
    rc6Decode .even (samples (edges (rc6Encode 0 true 0 0))) = .ok (.rc6 0 0 0) := by decide +kernel

/-- NEC armed, with the 67 captured edges of NEC 4, 8 from 1000 µs on and the fire scheduled (95 P2). -/
def necReception : State :=
  { State.reset with
    rx := { State.reset.rx with rxMode := .nec }
    env := { State.reset.env with
      sched := (captured (necEncode 4 8) 67).map (fun e => .edge (1000 + e)) ++ [.idleFire] } }

theorem witness_NecFrameIsReceivedEndToEnd :
    necReception.rx.rxMode = .nec ∧ necReception.rx.rxIndex = 0 ∧ necReception.rx.frameActive = false ∧
    necReception.rx.clkUs ≤ 1000 ∧ 67500 < necReception.cfg.necIdleTimeoutUs ∧
    necReception.env.sched =
      (captured (necEncode 4 8) 67).map (fun e => .edge (1000 + e)) ++ [.idleFire] :=
  ⟨rfl, rfl, rfl, by decide, by decide, rfl⟩

theorem witness_DispatchPopsEncodesAndTriggers :
    ((queued [0x20000408#32]).inWorld [.dispatch .fail] []).env.sched = [.dispatch .fail] ∧
    (queued [0x20000408#32]).tx.dispState = .ready ∧ (queued [0x30001234#32]).tx.txq = [0x30001234#32] ∧
    State.reset.tx.txq = [] ∧ (dead [0x20000408#32]).tx.dispState ≠ .ready := by decide

theorem witness_PlayDoneReturnsToReady :
    ((playing 0x20000408#32 [18000]).inWorld [.playDone] []).env.sched = [.playDone] ∧
    (playing 0x20000408#32 [18000]).tx.dispState = .busy ∧ State.reset.tx.dispState ≠ .busy := by decide

theorem witness_SingleFlight :
    ∃ t, step ((playing 0x20000408#32 [18000]).inWorld [.host] [.write 0 4 0x20000102]) = .next t ∧
      t.tx.txq = [0x20000102#32] :=
  ⟨_, rfl, by decide⟩

theorem witness_DeadUntilReset :
    ∃ t, runSteps 2 ((dead [0x20000304#32]).inWorld [.dispatch .ok, .playDone] []) = .next t ∧
      (dead [0x20000304#32]).tx.dispState = .dead ∧
      ∀ e ∈ ([.dispatch .ok, .playDone] : List Event).take 2, e ≠ .reset :=
  ⟨_, rfl, by decide⟩

theorem witness_ToggleFlipsExactlyAtRc6Dispatch :
    ∃ t, step ((queued [0x30001234#32]).inWorld [.dispatch .fail] []) = .next t ∧ t.tx.toggle = true :=
  ⟨_, rfl, by decide⟩

theorem witness_RequestsAreSentInOrder :
    ∃ s, runSteps 2 (State.powerOn Config.nominal 0 (Vector.replicate edgeBufSlots 0)
        ⟨[.host, .dispatch .ok], [.write 0 4 0x20000408], []⟩) = .next s ∧ s.tx.txCur = 0x20000408#32 ∧
      ∀ e ∈ ([.host, .dispatch .ok] : List Event).take 2, e ≠ .reset :=
  ⟨_, rfl, by decide, by decide⟩

/-- The last place of a full FIFO, and the counts at the ends of 1..2^31. -/
theorem witness_QueuedRequestsAreNotComplete :
    full.Inv ∧ 4 ≤ full.tx.txq.length ∧ tagPassed 5 5 = false ∧ tagPassed 5 6 = true ∧
    tagPassed 0 0x80000000 = true ∧ tagPassed 0 0x80000001 = false :=
  ⟨full_inv, by decide⟩

theorem witness_ReceiveAndTransmitAreIndependent :
    (∃ t, (Event.dispatch .ok).step (queued [0x30001234#32]) = .next t ∧ t.tx.dispState = .busy) ∧
    (∃ t, Event.idleFire.step necOneEdge = .next t ∧ t.rx.rxIndex = 0) ∧
    (∃ t, exec (.enqnec 1 2) necOneEdge = .next t ∧ t.tx.txEnqCount = 1) ∧
    necOneEdge.cfg = State.reset.cfg ∧ necOneEdge.tx = State.reset.tx ∧
    (dead []).rx = State.reset.rx ∧
    (∃ t, (Event.dispatch .fail).step (queued [0x30001234#32]) = .next t ∧
      t.ports.logOut = [.queueDispatchFailure 0x30001234#32]) ∧
    (∃ t, Event.playDone.step (playing 0x20000408#32 [18000]) = .next t ∧ t.ports.txOut = [[18000]]) ∧
    (∃ t, Event.idleFire.step necOneEdge = .next t ∧ t.ports.logOut = [.decode .protocolMismatch]) ∧
    ∃ t, (Event.edge 2000).step necOneEdge = .next t ∧ t.rx.rxIndex = 2 :=
  ⟨⟨_, rfl, by decide⟩, ⟨_, rfl, by decide⟩, ⟨_, rfl, by decide⟩, rfl, rfl, rfl,
    ⟨_, rfl, by decide⟩, ⟨_, rfl, by decide⟩, ⟨_, rfl, by decide⟩, ⟨_, rfl, by decide⟩⟩

theorem witness_ResetSetsTheListedValues :
    ((dead [0x20000304#32]).inWorld [.reset] []).env.sched = [.reset] ∧
    0 < ((dead [0x20000304#32]).inWorld [.reset] []).cfg.txqDepth ∧
    State.reset.readReg .status = some 0 := by decide

theorem witness_PowerOnStateIsTheResetState : Config.nominal.Valid := by decide

theorem witness_StepKeepsTheInvariants : necOneEdge.Inv ∧ ∃ t, step necOneEdge = .next t :=
  ⟨necOneEdge_inv, _, rfl⟩

theorem witness_ReachableStatesSatisfyR39 :
    Config.nominal.Valid ∧
    ∃ s, runSteps 2 (State.powerOn Config.nominal 7 (Vector.replicate edgeBufSlots 9)
      ⟨[.host, .edge 1000], [.write 0 4 0x10000001], []⟩) = .next s ∧ s.rx.rxIndex = 1 :=
  ⟨by decide, _, rfl, by decide⟩

theorem witness_DisabledEventsDoNothing :
    (State.reset.inWorld [.playDone] []).env.sched = [.playDone] ∧
    Event.enabled ((State.reset.inWorld [.playDone] []).afterEvent []) .playDone = false := by decide

theorem witness_ParametersNeverChange :
    ∃ t, runSteps 1 (dead []) = .next t ∧ t.cfg = Config.nominal := ⟨_, rfl, by decide⟩

theorem witness_TimeNeverRunsBack :
    State.reset.Inv ∧ ∃ t, step (State.reset.inWorld [.edge 5000] []) = .next t ∧ t.rx.clkUs = 5000 :=
  ⟨reset_inv, _, rfl, by decide⟩

theorem witness_PortsOnlyGrow :
    ∃ t, runSteps 1 ((playing 0x20000408#32 [18000]).inWorld [.playDone] []) = .next t ∧
      t.ports.txOut = [[18000]] := ⟨_, rfl, by decide⟩

theorem witness_CountersWrap :
    ∃ t, step ({ (State.reset.inWorld [.host] [.write 0 4 0]) with
        cmd := { cmdIllegal := false, illegalCount := 0xFFFFFFFF } }) = .next t ∧ t.cmd.illegalCount = 0 :=
  ⟨_, rfl, by decide⟩

/-- One dispatch, its playback's end, and then nothing more. -/
def fairRun : Nat → State
  | 0 => queued [0x20000408#32]
  | 1 => (queued [0x20000408#32]).takeDispatch .ok
  | _ + 2 => ((queued [0x20000408#32]).takeDispatch .ok).takePlayDone

/-- Its events: the dispatch, then the pulse generator for ever. -/
def fairEvents : Nat → Event
  | 0 => .dispatch .ok
  | _ + 1 => .playDone

theorem fairRun_isRun : IsRun fairRun fairEvents := by
  intro n
  refine ⟨[], ?_⟩
  match n with
  | 0 => rfl
  | 1 => rfl
  | k + 2 => rfl

theorem fairRun_fair (a : Agent) (ha : a = .dispatcher ∨ a = .pulseGen) :
    WeaklyFair a fairRun fairEvents := by
  intro n hn
  exfalso
  obtain ⟨e, hea, hee⟩ := hn (n + 2) (by omega)
  rcases ha with rfl | rfl <;> cases e <;> simp [Event.agent] at hea <;>
    simp [fairRun, queued, Event.enabled, Transmitter.dispatchEnabled, Transmitter.playDoneEnabled,
      State.takeDispatch, State.trigger] at hee

theorem witness_FairPlaybackCompletes :
    IsRun fairRun fairEvents ∧ NoReset fairEvents ∧ WeaklyFair .pulseGen fairRun fairEvents ∧
    (fairRun 1).tx.dispState = .busy := by
  refine ⟨fairRun_isRun, ?_, fairRun_fair _ (.inr rfl), by decide⟩
  intro n
  cases n <;> simp [fairEvents]

theorem witness_FairRequestsArePopped :
    IsRun fairRun fairEvents ∧ NoReset fairEvents ∧ WeaklyFair .dispatcher fairRun fairEvents ∧
    WeaklyFair .pulseGen fairRun fairEvents ∧ (fairRun 0).tx.txq = [0x20000408#32] := by
  refine ⟨fairRun_isRun, ?_, fairRun_fair _ (.inl rfl), fairRun_fair _ (.inr rfl), by decide⟩
  intro n
  cases n <;> simp [fairEvents]

end Sys2Proof.Machine
end

/-! # Scope: the schedule, the model's time, and liveness under weak fairness (00_scope.md R3 to R5)

The liveness statements rest on one rule of weak fairness (`WeaklyFair.exists_taken`) and on one frame fact:
a step that neither DISPATCHER, PULSEGEN nor RESET takes leaves the dispatcher's part of the state
(`Event.step_transmitKept`). -/

section

namespace Sys2Proof.Machine

/-! ### A disabled schedule entry (00 R3) -/

/-- Settles O53: the head of the schedule goes, and the disabled event leaves what remains. -/
theorem disabledEventsDoNothing : Obligations.DisabledEventsDoNothing := by
  intro s e rest hsched hdisabled
  rw [step_of_sched hsched, Event.step_of_disabled hdisabled]

/-! ### The model's time (10 R23) -/

/-- EDGE(t) moves the time to `t`, whether it records, drops or ignores the edge (41 R77 to R79). -/
@[simp] theorem Receiver.edge_clkUs (cfg : Config) (t : Nat) (r : Receiver) : (r.edge cfg t).clkUs = t := by
  rcases r.edge_cases cfg t with ⟨-, -, -, e⟩ | ⟨-, -, -, e⟩ | ⟨-, e⟩ <;> simp [e]

/-- IDLE_FIRE moves the time to the deadline, whatever the decode answers (41 R80). -/
@[simp] theorem State.takeIdleFire_clkUs (s : State) : s.takeIdleFire.rx.clkUs = s.rx.deadline := by
  rcases s.takeIdleFire_cases with ⟨m, -, e⟩ | ⟨err, -, e⟩ <;> simp [e]

/-- An enabled HOST step leaves the time. -/
theorem State.takeHost_clkUs {s t : State} (he : s.hostEnabled = true) (h : s.takeHost = .next t) :
    t.rx.clkUs = s.rx.clkUs := by
  obtain ⟨a, rfl | rfl | ⟨_, _, _, _, _, _, _, rfl⟩ | ⟨_, _, _, _, _, _, _, rfl⟩⟩ :=
    State.takeHost_effect s t he h <;> simp

/-- A DISPATCH leaves the time. -/
theorem State.takeDispatch_clkUs {s : State} (o : Trigger) (he : s.tx.dispatchEnabled = true) :
    (s.takeDispatch o).rx.clkUs = s.rx.clkUs := by
  obtain ⟨-, w, q, hq⟩ := (Transmitter.dispatchEnabled_iff _).1 he
  rcases s.takeDispatch_cases o w q hq with ⟨-, e⟩ | ⟨-, e⟩ <;> simp [e]

/-- What an enabled event does to the time: EDGE(x) moves it to `x`, not back; IDLE_FIRE moves it to the
deadline of the active frame; every other event leaves it. -/
theorem Event.take_clkUs_cases {s t : State} {e : Event} (he : e.enabled s = true) (h : e.take s = .next t) :
    (∃ x, e = .edge x ∧ s.rx.clkUs ≤ x ∧ t.rx.clkUs = x) ∨
    (e = .idleFire ∧ s.rx.frameActive = true ∧ t.rx.clkUs = s.rx.deadline) ∨
    t.rx.clkUs = s.rx.clkUs := by
  cases e with
  | host => exact .inr (.inr (State.takeHost_clkUs he h))
  | edge x =>
    cases h
    exact .inl ⟨x, rfl, ((s.rx.edgeEnabled_iff x).1 he).1, by simp⟩
  | idleFire =>
    cases h
    exact .inr (.inl ⟨rfl, he, by simp⟩)
  | dispatch o =>
    cases h
    exact .inr (.inr (State.takeDispatch_clkUs o he))
  | playDone =>
    cases h
    exact .inr (.inr (by simp))
  | reset =>
    cases h
    exact .inr (.inr rfl)

/-- Settles O55: the invariant `clk_le_deadline` (10 R39 item 4) is what keeps IDLE_FIRE from moving the
time back, and EDGE's enabling condition what keeps EDGE from it. -/
theorem timeNeverRunsBack : Obligations.TimeNeverRunsBack := by
  intro s t hinv hstep
  rcases step_cases hstep with ⟨-, rfl⟩ | ⟨e, rest, hsched, ⟨-, rfl⟩ | ⟨he, htake⟩⟩
  · simp
  · simp
  · rcases Event.take_clkUs_cases he htake with ⟨x, rfl, hle, hclk⟩ | ⟨rfl, hactive, hclk⟩ | hclk
    · exact ⟨hclk ▸ hle, fun _ => ⟨_, rest, hsched, .inl ⟨x, rfl⟩⟩⟩
    · exact ⟨hclk ▸ hinv.rx_inv.clk_le_deadline hactive, fun _ => ⟨_, rest, hsched, .inr rfl⟩⟩
    · rw [hclk]
      simp

/-! ### Events taken by an agent -/

/-- The event is an enabled step of the agent: what `WeaklyFair` promises of some later event. -/
def Event.TakenBy (e : Event) (a : Agent) (s : State) : Prop := e.agent = a ∧ e.enabled s = true

/-- What the world gives HOST between two steps enables or disables no other agent's event. -/
theorem Event.enabled_hostAppends {e : Event} (he : e.agent ≠ .host) (s : State) (more : List HostAccess) :
    e.enabled (s.hostAppends more) = e.enabled s := by
  cases e with
  | host => exact absurd rfl he
  | _ => rfl

theorem Event.takenBy_hostAppends {e : Event} {a : Agent} (ha : a ≠ .host) (s : State)
    (more : List HostAccess) : e.TakenBy a (s.hostAppends more) ↔ e.TakenBy a s := by
  refine and_congr_right fun hagent => ?_
  rw [Event.enabled_hostAppends (hagent ▸ ha)]

/-- PULSEGEN's one event is PLAY_DONE, enabled while BUSY (45 R135). -/
theorem Event.takenBy_pulseGen_iff {e : Event} {s : State} :
    e.TakenBy .pulseGen s ↔ e = .playDone ∧ s.tx.dispState = .busy := by
  cases e <;> simp [Event.TakenBy, Event.agent, Event.enabled, Transmitter.playDoneEnabled]

/-- DISPATCHER's events are DISPATCH(o), enabled while READY with a request queued (45 R133). -/
theorem Event.takenBy_dispatcher_iff {e : Event} {s : State} :
    e.TakenBy .dispatcher s ↔
      (∃ o, e = .dispatch o) ∧ s.tx.dispState = .ready ∧ ∃ w q, s.tx.txq = w :: q := by
  cases e <;> simp [Event.TakenBy, Event.agent, Event.enabled, Transmitter.dispatchEnabled_iff]

/-! ### The frame of the other agents' steps (45 R136, R143) -/

/-- From `s` to `t` the dispatcher and the pulse generator took no step: at most requests were added at the
FIFO's end. -/
structure State.TransmitKept (s t : State) : Prop where
  dispState_eq : t.tx.dispState = s.tx.dispState
  pulseTrain_eq : t.tx.pulseTrain = s.tx.pulseTrain
  txCur_eq : t.tx.txCur = s.tx.txCur
  toggle_eq : t.tx.toggle = s.tx.toggle
  txPopCount_eq : t.tx.txPopCount = s.tx.txPopCount
  txDoneCount_eq : t.tx.txDoneCount = s.tx.txDoneCount
  txOut_eq : t.ports.txOut = s.ports.txOut
  txq_prefix : s.tx.txq <+: t.tx.txq

theorem State.TransmitKept.refl (s : State) : s.TransmitKept s :=
  ⟨rfl, rfl, rfl, rfl, rfl, rfl, rfl, List.prefix_rfl⟩

theorem State.TransmitKept.trans {s t u : State} (h : s.TransmitKept t) (h' : t.TransmitKept u) :
    s.TransmitKept u where
  dispState_eq := h'.dispState_eq.trans h.dispState_eq
  pulseTrain_eq := h'.pulseTrain_eq.trans h.pulseTrain_eq
  txCur_eq := h'.txCur_eq.trans h.txCur_eq
  toggle_eq := h'.toggle_eq.trans h.toggle_eq
  txPopCount_eq := h'.txPopCount_eq.trans h.txPopCount_eq
  txDoneCount_eq := h'.txDoneCount_eq.trans h.txDoneCount_eq
  txOut_eq := h'.txOut_eq.trans h.txOut_eq
  txq_prefix := h.txq_prefix.trans h'.txq_prefix

/-- The head of the FIFO stays its head. -/
theorem State.TransmitKept.exists_txq_eq_cons {s t : State} {w : Word} {q : List Word}
    (h : s.TransmitKept t) (hq : s.tx.txq = w :: q) : ∃ q', t.tx.txq = w :: q' := by
  obtain ⟨tail, htail⟩ := h.txq_prefix
  exact ⟨q ++ tail, by rw [← htail, hq, List.cons_append]⟩

/-- A step that writes neither the transmit side nor a port of it keeps both. -/
theorem State.TransmitKept.of_eq {s t : State} (htx : t.tx = s.tx) (hout : t.ports.txOut = s.ports.txOut) :
    s.TransmitKept t := by
  constructor <;> simp [htx, hout]

/-- An enabled HOST step adds at most one request at the FIFO's end. -/
theorem State.takeHost_transmitKept {s t : State} (he : s.hostEnabled = true) (h : s.takeHost = .next t) :
    s.TransmitKept t := by
  obtain ⟨a, rfl | rfl | ⟨_, _, _, _, _, _, _, rfl⟩ | ⟨_, _, _, _, _, _, _, rfl⟩⟩ :=
    State.takeHost_effect s t he h
  · exact .of_eq rfl rfl
  · exact .of_eq rfl rfl
  · exact .of_eq rfl rfl
  · constructor <;> simp

theorem State.takeIdleFire_transmitKept (s : State) : s.TransmitKept s.takeIdleFire := by
  rcases s.takeIdleFire_cases with ⟨m, -, e⟩ | ⟨err, -, e⟩ <;> exact .of_eq (by simp [e]) (by simp [e])

/-- A step that neither RESET, DISPATCHER nor PULSEGEN takes keeps the dispatcher's part of the state. -/
theorem Event.step_transmitKept {s t : State} {e : Event} (h : e.step s = .next t) (hreset : e ≠ .reset)
    (hdisp : ¬e.TakenBy .dispatcher s) (hplay : ¬e.TakenBy .pulseGen s) : s.TransmitKept t := by
  cases he : e.enabled s with
  | false =>
    rw [Event.step_of_disabled he] at h
    cases h
    exact .refl s
  | true =>
    rw [Event.step_of_enabled he] at h
    cases e with
    | host => exact State.takeHost_transmitKept he h
    | edge x =>
      cases h
      exact .of_eq rfl rfl
    | idleFire =>
      cases h
      exact s.takeIdleFire_transmitKept
    | dispatch o => exact absurd ⟨rfl, he⟩ hdisp
    | playDone => exact absurd ⟨rfl, he⟩ hplay
    | reset => exact absurd rfl hreset

/-- What a DISPATCH step answers: DEAD, or BUSY with the head as `tx_cur`, popped and counted (45 R133,
R134). -/
theorem Event.step_dispatch {s t : State} {o : Trigger} {w : Word} {q : List Word}
    (hready : s.tx.dispState = .ready) (hq : s.tx.txq = w :: q)
    (h : (Event.dispatch o).step s = .next t) :
    t.tx.dispState = .dead ∨
      (t.tx.dispState = .busy ∧ t.tx.txCur = w ∧ t.tx.txPopCount = s.tx.txPopCount + 1) := by
  have he : (Event.dispatch o).enabled s = true := (Transmitter.dispatchEnabled_iff _).2 ⟨hready, w, q, hq⟩
  rw [Event.step_of_enabled he] at h
  cases h
  rcases s.takeDispatch_cases o w q hq with ⟨-, e⟩ | ⟨-, e⟩ <;> simp [e]

/-- What a PLAY_DONE step of a BUSY state answers (45 R135). -/
theorem Event.step_playDone {s t : State} (hbusy : s.tx.dispState = .busy)
    (h : Event.playDone.step s = .next t) : t = s.takePlayDone := by
  have he : Event.playDone.enabled s = true := (Event.takenBy_pulseGen_iff.2 ⟨rfl, hbusy⟩).2
  rw [Event.step_of_enabled he] at h
  cases h
  rfl

/-! ### Runs and the rule of weak fairness (00 R5) -/

/-- The rule of weak fairness: what enables the agent from `n` on, and lasts until the agent steps, holds
at some step of the agent. -/
theorem WeaklyFair.exists_taken {a : Agent} {ρ : Nat → State} {ev : Nat → Event} (hfair : WeaklyFair a ρ ev)
    {P : State → Prop} {n : Nat} (hstart : P (ρ n)) (henabled : ∀ s, P s → a.Enabled s)
    (hkeep : ∀ m, P (ρ m) → ¬(ev m).TakenBy a (ρ m) → P (ρ (m + 1))) :
    ∃ m, n ≤ m ∧ P (ρ m) ∧ (ev m).TakenBy a (ρ m) := by
  by_contra hnever
  push Not at hnever
  have hP : ∀ m, n ≤ m → P (ρ m) := by
    intro m hm
    induction m, hm using Nat.le_induction with
    | base => exact hstart
    | succ m hm ih => exact hkeep m ih (hnever m hm ih)
  obtain ⟨m, hm, htaken⟩ := hfair n fun m hm => henabled _ (hP m hm)
  exact hnever m hm (hP m hm) htaken

section

variable {ρ : Nat → State} {ev : Nat → Event}

/-- One step of a run, the accesses given to HOST included, that neither DISPATCHER nor PULSEGEN takes. -/
theorem IsRun.transmitKept_succ (hrun : IsRun ρ ev) (hreset : NoReset ev) {m : Nat}
    (hdisp : ¬(ev m).TakenBy .dispatcher (ρ m)) (hplay : ¬(ev m).TakenBy .pulseGen (ρ m)) :
    (ρ m).TransmitKept (ρ (m + 1)) := by
  obtain ⟨more, hstep⟩ := hrun m
  have hgiven : (ρ m).TransmitKept ((ρ m).hostAppends more) := .of_eq rfl rfl
  refine hgiven.trans (Event.step_transmitKept hstep (hreset m) ?_ ?_)
  · rwa [Event.takenBy_hostAppends (by simp)]
  · rwa [Event.takenBy_hostAppends (by simp)]

/-- A BUSY state waits, its playback and FIFO kept, until a PLAY_DONE ends that playback (45 R136, R140). -/
theorem IsRun.exists_playDone (hrun : IsRun ρ ev) (hreset : NoReset ev) (hfair : WeaklyFair .pulseGen ρ ev)
    {n : Nat} (hbusy : (ρ n).tx.dispState = .busy) :
    ∃ m, n ≤ m ∧ (ρ n).TransmitKept (ρ m) ∧ (ρ (m + 1)).tx = (ρ m).tx.finish ∧
      (ρ (m + 1)).ports.txOut = (ρ m).ports.txOut ++ [(ρ m).tx.pulseTrain] := by
  have hbusy' : ∀ {s}, (ρ n).TransmitKept s → s.tx.dispState = .busy := fun h => h.dispState_eq.trans hbusy
  obtain ⟨m, hnm, hkept, htaken⟩ := hfair.exists_taken (P := (ρ n).TransmitKept) (n := n) (.refl _)
    (fun s hs => ⟨.playDone, Event.takenBy_pulseGen_iff.2 ⟨rfl, hbusy' hs⟩⟩)
    (fun m hm hplay => by
      refine hm.trans (hrun.transmitKept_succ hreset ?_ hplay)
      simp [Event.takenBy_dispatcher_iff, hbusy' hm])
  obtain ⟨hplayDone, -⟩ := Event.takenBy_pulseGen_iff.1 htaken
  obtain ⟨more, hstep⟩ := hrun m
  rw [hplayDone] at hstep
  have hnext : ρ (m + 1) = ((ρ m).hostAppends more).takePlayDone :=
    Event.step_playDone (by simpa using hbusy' hkept) hstep
  exact ⟨m, hnm, hkept, by simp [hnext], by simp [hnext]⟩

/-- A READY state with a request at the FIFO's head waits until a DISPATCH takes that request (45 R133). -/
theorem IsRun.exists_dispatch (hrun : IsRun ρ ev) (hreset : NoReset ev) (hfair : WeaklyFair .dispatcher ρ ev)
    {n : Nat} {w : Word} {q : List Word} (hready : (ρ n).tx.dispState = .ready)
    (hq : (ρ n).tx.txq = w :: q) :
    ∃ m, n ≤ m ∧ ((ρ (m + 1)).tx.dispState = .dead ∨
      ((ρ (m + 1)).tx.dispState = .busy ∧ (ρ (m + 1)).tx.txCur = w ∧
        (ρ (m + 1)).tx.txPopCount = (ρ n).tx.txPopCount + 1)) := by
  have hready' : ∀ {s}, (ρ n).TransmitKept s → s.tx.dispState = .ready :=
    fun h => h.dispState_eq.trans hready
  obtain ⟨m, hnm, hkept, htaken⟩ := hfair.exists_taken (P := (ρ n).TransmitKept) (n := n) (.refl _)
    (fun s hs => ⟨.dispatch .ok, Event.takenBy_dispatcher_iff.2
      ⟨⟨_, rfl⟩, hready' hs, w, hs.exists_txq_eq_cons hq⟩⟩)
    (fun m hm hdisp => by
      refine hm.trans (hrun.transmitKept_succ hreset hdisp ?_)
      simp [Event.takenBy_pulseGen_iff, hready' hm])
  obtain ⟨⟨o, hdispatch⟩, -⟩ := Event.takenBy_dispatcher_iff.1 htaken
  obtain ⟨q', hq'⟩ := hkept.exists_txq_eq_cons hq
  obtain ⟨more, hstep⟩ := hrun m
  rw [hdispatch] at hstep
  have hnext := Event.step_dispatch (by simpa using hready' hkept) (by simpa using hq') hstep
  rw [State.hostAppends_tx, hkept.txPopCount_eq] at hnext
  exact ⟨m, hnm, hnext⟩

end

/-- Settles O58: the PLAY_DONE that fairness gives ends the playback of the train that was BUSY. -/
theorem fairPlaybackCompletes : Obligations.FairPlaybackCompletes := by
  intro ρ ev hrun hreset hfair n hbusy
  obtain ⟨m, hnm, hkept, htx, hout⟩ := hrun.exists_playDone hreset hfair hbusy
  refine ⟨m + 1, by omega, by simp [htx], ?_, ?_⟩
  · rw [hout, hkept.txOut_eq, hkept.pulseTrain_eq]
  · rw [htx, Transmitter.finish_txDoneCount, hkept.txDoneCount_eq]

/-- Settles O59: a READY dispatcher takes the head at its next DISPATCH; a BUSY one first ends its playback,
which leaves the head and the pop count. -/
theorem fairRequestsArePopped : Obligations.FairRequestsArePopped := by
  intro ρ ev hrun hreset hfairDisp hfairPlay n w q hq
  cases hstate : (ρ n).tx.dispState with
  | dead => exact ⟨n, le_rfl, .inl hstate⟩
  | ready =>
    obtain ⟨m, hnm, hpopped⟩ := hrun.exists_dispatch hreset hfairDisp hstate hq
    exact ⟨m + 1, by omega, hpopped⟩
  | busy =>
    obtain ⟨k, hnk, hkept, htx, -⟩ := hrun.exists_playDone hreset hfairPlay hstate
    obtain ⟨q', hq'⟩ := hkept.exists_txq_eq_cons hq
    obtain ⟨m, hkm, hpopped⟩ := hrun.exists_dispatch hreset hfairDisp (n := k + 1) (w := w) (q := q')
      (by simp [htx]) (by simpa [htx] using hq')
    rw [htx, Transmitter.finish_txPopCount, hkept.txPopCount_eq] at hpopped
    exact ⟨m + 1, by omega, hpopped⟩

end Sys2Proof.Machine

end

/-! # The state: one inversion of the step, the invariants, counters, ports and STATUS (10_state.md)

What a step can do to the block is said once, as the eleven cases of `State.BlockStep` (`step_blockStep`); what
a step keeps is then one case split on them, with a lemma for each operation of the receive and of the
transmit side. -/

section

namespace Sys2Proof.Machine

/-! ### What one step does to the block -/

/-- What one step can make of a state, the world's part `env` aside: one constructor per way in which a
step writes the block, with the schedule entry that takes it and the condition that enables it. -/
inductive State.BlockStep (s : State) : State → Prop
  /-- No entry, a disabled one, a read, or an access answered with a BusError. -/
  | kept (env : Environment) : s.BlockStep { s with env := env }
  /-- An illegal word, 30 R68. -/
  | illegalWord {rest : List Event} (env : Environment) (sched_eq : s.env.sched = .host :: rest) :
      s.BlockStep { s with
        cmd := { cmdIllegal := true, illegalCount := s.cmd.illegalCount + 1 }, env := env }
  /-- SETMODE, 41 R74. -/
  | setmode {rest : List Event} {w : Word} {more : List HostAccess} {m : BitVec 2} (mode : ReceiveMode)
      (env : Environment) (sched_eq : s.env.sched = .host :: rest)
      (host_eq : s.env.host = .write s.cfg.mmioBase 4 w :: more)
      (decode_eq : decode w = .command (.setmode m)) (mode_eq : ReceiveMode.ofBits m = some mode) :
      s.BlockStep { s with
        rx := s.rx.disarm.bindMode mode, cmd := { s.cmd with cmdIllegal := false }, env := env }
  /-- ENQNEC or ENQRC6 with room in the FIFO, 45 R129, R130. -/
  | accepted {rest : List Event} {w : Word} {more : List HostAccess} (env : Environment)
      (sched_eq : s.env.sched = .host :: rest)
      (host_eq : s.env.host = .write s.cfg.mmioBase 4 w :: more)
      (request : isRequestWord w = true) (room : s.hasRoom = true) :
      s.BlockStep { s with
        tx := s.tx.enqueue w, cmd := { s.cmd with cmdIllegal := false }, env := env }
  /-- EDGE(t), 41 R78. -/
  | edge {rest : List Event} (t : Nat) (env : Environment) (sched_eq : s.env.sched = .edge t :: rest)
      (enabled : s.rx.edgeEnabled t = true) :
      s.BlockStep { s with rx := s.rx.edge s.cfg t, env := env }
  /-- IDLE_FIRE with a message, 41 R84. -/
  | delivered {rest : List Event} (msg : Message) (env : Environment)
      (sched_eq : s.env.sched = .idleFire :: rest) (active : s.rx.frameActive = true)
      (decode_eq : s.rx.decodeFrame s.cfg = .ok msg) :
      s.BlockStep { s with
        rx := { (s.rx.atTime s.rx.deadline).disarm with
          rxMsg := msgWord msg, rxMsgCount := s.rx.rxMsgCount + 1, rxResult := msg.code }
        ports := { s.ports with rxOut := s.ports.rxOut ++ [msg] }, env := env }
  /-- IDLE_FIRE with a decode failure, 41 R85. -/
  | failed {rest : List Event} (e : DecodeFailure) (env : Environment)
      (sched_eq : s.env.sched = .idleFire :: rest) (active : s.rx.frameActive = true)
      (decode_eq : s.rx.decodeFrame s.cfg = .fail e) :
      s.BlockStep { s with
        rx := { (s.rx.atTime s.rx.deadline).disarm with
          rxResult := e.code, rxFailCount := s.rx.rxFailCount + 1 }
        ports := { s.ports with logOut := s.ports.logOut ++ [.decode e] }, env := env }
  /-- DISPATCH with the playback triggered, 45 R133. -/
  | triggered {rest : List Event} {w : Word} {q : List Word} (env : Environment)
      (sched_eq : s.env.sched = .dispatch .ok :: rest) (ready : s.tx.dispState = .ready)
      (txq_eq : s.tx.txq = w :: q) :
      s.BlockStep { s with
        tx := (s.tx.pop w q (!isNecRequest w)).start (encodeRequest w s.tx.toggle), env := env }
  /-- DISPATCH with a failed trigger, 45 R134. -/
  | died {rest : List Event} {w : Word} {q : List Word} (env : Environment)
      (sched_eq : s.env.sched = .dispatch .fail :: rest) (ready : s.tx.dispState = .ready)
      (txq_eq : s.tx.txq = w :: q) :
      s.BlockStep { s with
        tx := { s.tx.pop w q (!isNecRequest w) with dispState := .dead }
        ports := { s.ports with logOut := s.ports.logOut ++ [.queueDispatchFailure w] }, env := env }
  /-- PLAY_DONE, 45 R135. -/
  | finished {rest : List Event} (env : Environment) (sched_eq : s.env.sched = .playDone :: rest)
      (busy : s.tx.dispState = .busy) :
      s.BlockStep { s with
        tx := s.tx.finish
        ports := { s.ports with txOut := s.ports.txOut ++ [s.tx.pulseTrain] }, env := env }
  /-- RESET, 70 R164. -/
  | reset {rest : List Event} (env : Environment) (sched_eq : s.env.sched = .reset :: rest) :
      s.BlockStep { s with
        rx := Receiver.powerOn s.rx.clkUs s.rx.edgeBuf, tx := Transmitter.powerOn
        cmd := CommandStatus.powerOn, env := env }

/-- The word of a decoded ENQ command is the command's own (30 R64 to R66). -/
theorem encode_of_decode_request {w : Word} {i : Instr} (h : decode w = .command i)
    (hi : ∀ m, i ≠ .setmode m) : encode i = w := by
  unfold decode at h
  split_ifs at h with hop hzero _ hop hzero hop hzero
  · cases h
    exact absurd rfl (hi _)
  · cases h
    rw [not_not] at hzero
    calc encode (.enqnec (w.extractLsb' 8 8) (w.extractLsb' 0 8))
        = opField w ++ w.extractLsb' 16 12 ++ w.extractLsb' 8 8 ++ w.extractLsb' 0 8 := by
          rw [hop, hzero]
          rfl
      _ = w := by
          rw [opField]
          iterate 3 rw [BitVec.extractLsb'_append_extractLsb'_eq_extractLsb' (by rfl)]
          simp
  · cases h
    rw [not_not] at hzero
    calc encode (.enqrc6 (w.extractLsb' 16 3) (w.extractLsb' 8 8) (w.extractLsb' 0 8))
        = opField w ++ w.extractLsb' 19 9 ++ w.extractLsb' 16 3 ++ w.extractLsb' 8 8
            ++ w.extractLsb' 0 8 := by
          rw [hop, hzero]
          rfl
      _ = w := by
          rw [opField]
          iterate 4 rw [BitVec.extractLsb'_append_extractLsb'_eq_extractLsb' (by rfl)]
          simp

theorem isRequestWord_of_decode {w : Word} {i : Instr} (h : decode w = .command i)
    (hi : ∀ m, i ≠ .setmode m) : isRequestWord w = true := by
  cases i with
  | setmode m => exact absurd rfl (hi m)
  | _ => simp [isRequestWord, h]

/-- HOST's step, of an access that is not held. -/
theorem State.takeHost_blockStep {s t : State} {rest : List Event} (hsched : s.env.sched = .host :: rest)
    (he : (s.afterEvent rest).hostEnabled = true) (h : (s.afterEvent rest).takeHost = .next t) :
    s.BlockStep t := by
  obtain ⟨a, rfl | rfl | ⟨w, more, m, mode, hw, hd, hm, rfl⟩ | ⟨w, more, i, hw, hd, hi, hroom, rfl⟩⟩ :=
    State.takeHost_effect _ t he h
  · exact .kept _
  · exact .illegalWord _ hsched
  · exact .setmode mode _ hsched hw hd hm
  · rw [encode_of_decode_request hd hi]
    exact .accepted _ hsched hw (isRequestWord_of_decode hd hi) hroom

/-- A step of the machine is one of the eleven; what it leaves in `env` is `step_sched`'s. -/
theorem step_blockStep {s t : State} (h : step s = .next t) : s.BlockStep t := by
  rcases step_cases h with ⟨-, rfl⟩ | ⟨e, rest, hsched, ⟨-, rfl⟩ | ⟨he, htake⟩⟩
  · exact .kept _
  · exact .kept _
  cases e with
  | host => exact State.takeHost_blockStep hsched he htake
  | edge x =>
    cases htake
    exact .edge x _ hsched he
  | idleFire =>
    cases htake
    rcases (s.afterEvent rest).takeIdleFire_cases with ⟨msg, hdec, e⟩ | ⟨err, hdec, e⟩
    · rw [e]
      exact .delivered msg _ hsched he hdec
    · rw [e]
      exact .failed err _ hsched he hdec
  | dispatch o =>
    cases htake
    obtain ⟨hready, w, q, hq⟩ := (Transmitter.dispatchEnabled_iff _).1 he
    rcases (s.afterEvent rest).takeDispatch_cases o w q hq with ⟨rfl, e⟩ | ⟨rfl, e⟩
    · rw [e]
      exact .triggered _ hsched hready hq
    · rw [e]
      exact .died _ hsched hready hq
  | playDone =>
    cases htake
    exact .finished _ hsched (of_decide_eq_true he)
  | reset =>
    cases htake
    exact .reset _ hsched

/-- What EDGE(t) leaves of the receive side: the mode, the registers and the counters (41 R78). -/
@[simp] theorem Receiver.edge_frame (cfg : Config) (t : Nat) (r : Receiver) :
    (r.edge cfg t).rxMode = r.rxMode ∧ (r.edge cfg t).rxResult = r.rxResult ∧
    (r.edge cfg t).rxMsg = r.rxMsg ∧ (r.edge cfg t).rxMsgCount = r.rxMsgCount ∧
    (r.edge cfg t).rxFailCount = r.rxFailCount := by
  rcases r.edge_cases cfg t with ⟨-, -, -, e⟩ | ⟨-, -, -, e⟩ | ⟨-, e⟩ <;> simp [e]

/-- What holds at the start and is kept by every step holds after any number of steps. -/
theorem runSteps_induction {P : State → Prop} (hstep : ∀ {s t}, P s → step s = .next t → P t)
    {n : Nat} {s t : State} (hs : P s) (hrun : runSteps n s = .next t) : P t := by
  induction n generalizing s with
  | zero =>
    cases hrun
    exact hs
  | succ n ih =>
    rw [runSteps] at hrun
    split at hrun
    case h_1 u hu => exact ih (hstep hs hu) hrun
    all_goals cases hrun

/-! ### Packed words (00 R7)

`simp` does not see through the width `v + w` of an append that is stated at a numeral; these three name the
append itself. -/

section

variable {v w : Nat} (x : BitVec v) (y : BitVec w)

theorem getLsbD_bitVecAppend (i : Nat) :
    (BitVec.append x y).getLsbD i = if i < w then y.getLsbD i else x.getLsbD (i - w) :=
  BitVec.getLsbD_append

theorem extractLsb'_bitVecAppend_high {i : Nat} (n : Nat) (h : w ≤ i) :
    (BitVec.append x y).extractLsb' i n = x.extractLsb' (i - w) n :=
  BitVec.extractLsb'_append_eq_of_le h

theorem extractLsb'_bitVecAppend_low {i n : Nat} (h : i + n ≤ w) :
    (BitVec.append x y).extractLsb' i n = y.extractLsb' i n :=
  BitVec.extractLsb'_append_eq_of_add_le h

end

/-! ### The receive side's invariants (10 R39 items 1 to 4, R24, 41 R86) -/

/-- The part of `Receiver.Inv` about the frame in progress: 10 R39 items 1 to 4. -/
structure Receiver.FrameInv (r : Receiver) : Prop where
  index_le_cap : r.rxIndex ≤ cap r.rxMode
  active_iff_index_pos : r.frameActive = true ↔ 0 < r.rxIndex
  idle_empty : r.rxMode = .idle → r.rxIndex = 0 ∧ r.frameActive = false
  clk_le_deadline : r.frameActive = true → r.clkUs ≤ r.deadline

/-- The part of `Receiver.Inv` about the contents of RX_RESULT and RX_MSG: 10 R24, 41 R86. -/
structure RegistersOk (result : BitVec 4) (msg : Word) : Prop where
  result_code : result ≤ 6#4
  msg_type : msg.extractLsb' 30 2 ≠ 3#2
  msg_zero_field : msg.extractLsb' 24 6 = 0#6

theorem Receiver.inv_iff (r : Receiver) : r.Inv ↔ r.FrameInv ∧ RegistersOk r.rxResult r.rxMsg :=
  ⟨fun h => ⟨⟨h.index_le_cap, h.active_iff_index_pos, h.idle_empty, h.clk_le_deadline⟩,
      ⟨h.result_code, h.msg_type, h.msg_zero_field⟩⟩,
    fun ⟨h, h'⟩ => ⟨h.index_le_cap, h.active_iff_index_pos, h.idle_empty, h.clk_le_deadline,
      h'.result_code, h'.msg_type, h'.msg_zero_field⟩⟩

/-- An empty buffer with the timer disarmed suits every mode: what SETMODE, IDLE_FIRE and RESET leave. -/
theorem Receiver.frameInv_of_empty {r : Receiver} (hindex : r.rxIndex = 0) (hactive : r.frameActive = false) :
    r.FrameInv := by
  constructor <;> simp [hindex, hactive]

/-- EDGE(t) (41 R78): the edge that arms the timer sets a deadline not before it, a later one comes no later
than the deadline (`Receiver.edgeEnabled_iff`), and only an edge that finds room is stored. -/
theorem Receiver.FrameInv.edge {cfg : Config} {t : Nat} {r : Receiver} (h : r.FrameInv)
    (he : r.edgeEnabled t = true) : (r.edge cfg t).FrameInv := by
  have hdeadline : r.frameActive = true → t ≤ r.deadline := fun hactive =>
    ((r.edgeEnabled_iff t).1 he).2.resolve_left (by simp [hactive])
  rcases r.edge_cases cfg t with ⟨hmode, hroom, h0, e⟩ | ⟨hmode, hroom, hpos, e⟩ | ⟨-, e⟩
  · rw [e]
    exact ⟨by simpa using hroom, by simp, fun hidle => absurd hidle hmode, by simp⟩
  · rw [e]
    exact ⟨by simpa using hroom, by simpa using h.active_iff_index_pos.2 (by omega),
      fun hidle => absurd hidle hmode, hdeadline⟩
  · rw [e]
    exact ⟨h.index_le_cap, h.active_iff_index_pos, h.idle_empty, hdeadline⟩

/-- What a delivery writes to the two registers (41 R84, R86). -/
theorem Message.registersOk (msg : Message) : RegistersOk msg.code (msgWord msg) := by
  cases msg
  all_goals
    refine ⟨by simp [Message.code], ?_, ?_⟩
    all_goals
      simp (disch := decide) only [msgWord, HAppend.hAppend, extractLsb'_bitVecAppend_high]
      decide

theorem DecodeFailure.code_le (e : DecodeFailure) : e.code ≤ 6#4 := by cases e <;> decide

theorem registersOk_zero : RegistersOk 0 0 := ⟨by decide, by decide, by decide⟩

theorem Receiver.powerOn_inv (clk : Nat) (buf : Vector Timestamp edgeBufSlots) :
    (Receiver.powerOn clk buf).Inv :=
  (Receiver.inv_iff _).2 ⟨Receiver.frameInv_of_empty rfl rfl, registersOk_zero⟩

section

variable {r : Receiver} (h : r.Inv)
include h

theorem Receiver.Inv.registersOk : RegistersOk r.rxResult r.rxMsg := (r.inv_iff.1 h).2

theorem Receiver.Inv.setmode (mode : ReceiveMode) : (r.disarm.bindMode mode).Inv :=
  (Receiver.inv_iff _).2 ⟨Receiver.frameInv_of_empty rfl rfl, h.registersOk⟩

theorem Receiver.Inv.edge {cfg : Config} {t : Nat} (he : r.edgeEnabled t = true) : (r.edge cfg t).Inv :=
  (Receiver.inv_iff _).2 ⟨(r.inv_iff.1 h).1.edge he, by simpa using h.registersOk⟩

end

/-! ### Trains fit the pulse-train buffer (10 R31, 44 R115, R123) -/

/-- A duration is positive and fits 16 bits (10 R31). -/
abbrev DurationOk (d : Nat) : Prop := 0 < d ∧ d < 2 ^ 16

/-- What the transmit side's invariants ask of a train in playback. -/
structure Sendable (p : PulseTrain) : Prop where
  ne_nil : p ≠ []
  length_le : p.length ≤ ptSlots
  entries : ∀ d ∈ p, DurationOk d

@[simp] theorem necByteTrain_length (b : Byte) : (necByteTrain b).length = 16 := by
  simp [necByteTrain, necBitTrain, List.length_flatMap]

theorem necByteTrain_entries (b : Byte) : ∀ d ∈ necByteTrain b, DurationOk d := by
  intro d hd
  obtain ⟨bit, -, hd⟩ := List.mem_flatMap.1 hd
  cases bit <;> simp [necBitTrain] at hd <;> omega

theorem necEncode_sendable (d c : Byte) : Sendable (necEncode d c) where
  ne_nil := by simp [necEncode]
  length_le := by simp [necEncode, ptSlots]
  entries := by
    simp only [necEncode, List.forall_mem_append]
    exact ⟨⟨⟨⟨⟨by simp [DurationOk], necByteTrain_entries _⟩, necByteTrain_entries _⟩, necByteTrain_entries _⟩,
      necByteTrain_entries _⟩, by simp [DurationOk]⟩

/-- Up to eight units of 444 µs are a duration: no RC6 entry is longer than the 7T of a merged tail. -/
theorem durationOk_units {k : Nat} (hpos : 1 ≤ k) (hle : k ≤ 8) : DurationOk (k * rc6UnitTicks) := by
  unfold rc6UnitTicks
  constructor <;> omega

/-- A pen that has written at most `n` entries, with a half of 1T or 2T pending. -/
structure Rc6Pen.Bounded (n : Nat) (p : Rc6Pen) : Prop where
  length_le : p.train.length ≤ n
  entries : ∀ d ∈ p.train, DurationOk d
  pending_pos : 1 ≤ p.pending
  pending_le : p.pending ≤ 2

theorem rc6PenStart_bounded : rc6PenStart.Bounded 3 := by
  constructor <;> simp [rc6PenStart, rc6UnitTicks, DurationOk]

/-- One bit writes at most two entries (44 R121). -/
theorem Rc6Pen.Bounded.emit {n w : Nat} {p : Rc6Pen} (h : p.Bounded n) (b : Bool) (hpos : 1 ≤ w)
    (hle : w ≤ 2) : (rc6Emit p b w).Bounded (n + 2) := by
  obtain ⟨hlength, hentries, hppos, hple⟩ := h
  by_cases hb : b = p.level
  · rw [rc6Emit_same w hb]
    refine ⟨by simpa using hlength, List.forall_mem_append.2 ⟨hentries, ?_⟩, hpos, hle⟩
    simpa using ⟨durationOk_units hppos (by omega), durationOk_units hpos (by omega)⟩
  · rw [rc6Emit_flip w hb]
    refine ⟨by simp; omega, List.forall_mem_append.2 ⟨hentries, ?_⟩, hpos, hle⟩
    simpa using durationOk_units (k := p.pending + w) (by omega) (by omega)

theorem Rc6Pen.Bounded.emitAll {n : Nat} {p : Rc6Pen} (h : p.Bounded n) (bits : List (Bool × Nat))
    (hwidths : ∀ x ∈ bits, 1 ≤ x.2 ∧ x.2 ≤ 2) : (rc6EmitAll p bits).Bounded (n + 2 * bits.length) := by
  induction bits generalizing n p with
  | nil => exact h
  | cons x bits ih =>
    obtain ⟨hx, hbits⟩ := List.forall_mem_cons.1 hwidths
    have := ih (h.emit x.1 hx.1 hx.2) hbits
    rwa [List.length_cons, Nat.mul_succ, Nat.add_comm (2 * _), ← Nat.add_assoc]

/-- The trailing silence adds at most two entries (44 R122). -/
theorem Rc6Pen.Bounded.finish {n : Nat} {p : Rc6Pen} (h : p.Bounded n) (hn : n + 2 ≤ ptSlots) :
    Sendable (rc6Finish p) := by
  obtain ⟨hlength, hentries, hppos, hple⟩ := h
  unfold rc6Finish
  split
  · refine ⟨by simp, by simp; omega, List.forall_mem_append.2 ⟨hentries, ?_⟩⟩
    simpa using durationOk_units (k := p.pending + 6) (by omega) (by omega)
  · refine ⟨by simp, by simp; omega, List.forall_mem_append.2 ⟨hentries, ?_⟩⟩
    simpa using ⟨durationOk_units hppos (by omega), durationOk_units (k := 6) (by omega) (by omega)⟩

theorem rc6Encode_sendable (m : BitVec 3) (tg : Bool) (c i : Byte) : Sendable (rc6Encode m tg c i) := by
  have hwidths : ∀ x ∈ (rc6BitStream m tg c i).zip rc6Widths, 1 ≤ x.2 ∧ x.2 ≤ 2 := fun x hx =>
    (by decide : ∀ w ∈ rc6Widths, 1 ≤ w ∧ w ≤ 2) x.2 (List.of_mem_zip hx).2
  refine (rc6PenStart_bounded.emitAll _ hwidths).finish ?_
  rw [List.length_zip, rc6BitStream_length]
  decide

theorem encodeRequest_sendable (w : Word) (tg : Bool) : Sendable (encodeRequest w tg) := by
  unfold encodeRequest
  split
  · exact necEncode_sendable _ _
  · exact rc6Encode_sendable _ _ _ _

/-! ### The transmit side's invariants (10 R39 items 5 to 8, R31, R32, 45 R132) -/

/-- A request's word is never 0, so `tx_cur` = 0 tells READY (10 R32). -/
theorem ne_zero_of_isRequestWord {w : Word} (h : isRequestWord w = true) : w ≠ 0#32 := by
  rintro rfl
  exact absurd h (by decide)

theorem Transmitter.powerOn_inv (cfg : Config) : Transmitter.powerOn.Inv cfg := by
  constructor <;> simp [Transmitter.powerOn]

section

variable {cfg : Config} {t : Transmitter} (h : t.Inv cfg)
include h

theorem Transmitter.Inv.enqueue {w : Word} (hroom : t.txq.length < cfg.txqDepth)
    (hw : isRequestWord w = true) : (t.enqueue w).Inv cfg where
  txq_le_depth := by simpa using hroom
  busy_iff_train := h.busy_iff_train
  ready_iff_cur_zero := h.ready_iff_cur_zero
  enq_pop := by
    have hcount := h.enq_pop
    simp only [Transmitter.enqueue_txEnqCount, Transmitter.enqueue_txPopCount, Transmitter.enqueue_txq,
      List.length_append, List.length_singleton, BitVec.ofNat_add]
    grind
  pop_done := h.pop_done
  requests := by simpa [or_imp, forall_and, hw] using h.requests
  train_length := h.train_length
  train_entries := h.train_entries

theorem Transmitter.Inv.finish (hbusy : t.dispState = .busy) : t.finish.Inv cfg where
  txq_le_depth := h.txq_le_depth
  busy_iff_train := by simp
  ready_iff_cur_zero := by simp
  enq_pop := h.enq_pop
  pop_done := by
    have hcount := h.pop_done
    simp only [hbusy, reduceCtorEq, if_false] at hcount
    simp only [Transmitter.finish_txPopCount, Transmitter.finish_txDoneCount,
      Transmitter.finish_dispState, if_true]
    grind
  requests := h.requests
  train_length := by simp
  train_entries := by simp

variable {w : Word} {q : List Word} (hready : t.dispState = .ready) (hq : t.txq = w :: q)
include hready hq

/-- A DISPATCH of the head `w`, whatever the trigger's outcome: the head is popped and counted, and a state
that is not READY is entered with a train that is empty unless BUSY (45 R133, R134). -/
theorem Transmitter.Inv.dispatch (flip : Bool) {d : DispState} {p : PulseTrain} (hd : d ≠ .ready)
    (htrain : d = .busy ↔ p ≠ []) (hlength : p.length ≤ ptSlots) (hentries : ∀ x ∈ p, DurationOk x) :
    Transmitter.Inv cfg { t.pop w q flip with dispState := d, pulseTrain := p } where
  txq_le_depth := by
    have hdepth := h.txq_le_depth
    rw [hq, List.length_cons] at hdepth
    exact Nat.le_of_succ_le hdepth
  busy_iff_train := htrain
  ready_iff_cur_zero := iff_of_false hd (ne_zero_of_isRequestWord (h.requests w (by simp [hq])))
  enq_pop := by
    have hcount := h.enq_pop
    rw [hq, List.length_cons, BitVec.ofNat_add] at hcount
    simp only [Transmitter.pop_txEnqCount, Transmitter.pop_txPopCount, Transmitter.pop_txq]
    grind
  pop_done := by
    have hcount := h.pop_done
    simp only [hready, if_true] at hcount
    simp only [Transmitter.pop_txDoneCount, Transmitter.pop_txPopCount, hd, if_false]
    grind
  requests := fun v hv => h.requests v (by rw [hq]; exact List.mem_cons_of_mem w hv)
  train_length := hlength
  train_entries := hentries

theorem Transmitter.Inv.triggered (flip tg : Bool) :
    ((t.pop w q flip).start (encodeRequest w tg)).Inv cfg := by
  obtain ⟨hne, hlength, hentries⟩ := encodeRequest_sendable w tg
  exact h.dispatch hready hq flip (by simp) (by simp [hne]) hlength hentries

theorem Transmitter.Inv.died (flip : Bool) :
    Transmitter.Inv cfg { t.pop w q flip with dispState := .dead } := by
  have hempty : ¬t.pulseTrain ≠ [] := fun hne => by simpa [hready] using h.busy_iff_train.2 hne
  exact h.dispatch hready hq flip (by simp) (iff_of_false (by simp) hempty) h.train_length h.train_entries

end

/-! ### The invariants of every step and every run -/

/-- The invariants are kept side by side: a step that writes one side leaves the other. -/
theorem State.BlockStep.inv {s t : State} (h : s.BlockStep t) (hs : s.Inv) : t.Inv := by
  obtain ⟨hcfg, hrx, htx⟩ := hs
  cases h with
  | kept | illegalWord => exact ⟨hcfg, hrx, htx⟩
  | setmode mode => exact ⟨hcfg, hrx.setmode mode, htx⟩
  | accepted _ _ _ hrequest hroom => exact ⟨hcfg, hrx, htx.enqueue (of_decide_eq_true hroom) hrequest⟩
  | edge _ _ _ he => exact ⟨hcfg, hrx.edge he, htx⟩
  | delivered msg =>
    exact ⟨hcfg, (Receiver.inv_iff _).2 ⟨Receiver.frameInv_of_empty rfl rfl, msg.registersOk⟩, htx⟩
  | failed e =>
    obtain ⟨-, htype, hzero⟩ := hrx.registersOk
    exact ⟨hcfg, (Receiver.inv_iff _).2 ⟨Receiver.frameInv_of_empty rfl rfl, e.code_le, htype, hzero⟩, htx⟩
  | triggered _ _ hready hq => exact ⟨hcfg, hrx, htx.triggered hready hq _ _⟩
  | died _ _ hready hq => exact ⟨hcfg, hrx, htx.died hready hq _⟩
  | finished _ _ hbusy => exact ⟨hcfg, hrx, htx.finish hbusy⟩
  | reset => exact ⟨hcfg, Receiver.powerOn_inv _ _, Transmitter.powerOn_inv _⟩

/-- Settles O50: the eleven ways in which a step writes the block, each with its side's lemma. -/
theorem stepKeepsTheInvariants : Obligations.StepKeepsTheInvariants := fun _ _ hs hstep =>
  (step_blockStep hstep).inv hs

theorem State.powerOn_inv {cfg : Config} (hcfg : cfg.Valid) (clk : Nat)
    (buf : Vector Timestamp edgeBufSlots) (env : Environment) : (State.powerOn cfg clk buf env).Inv :=
  ⟨hcfg, Receiver.powerOn_inv clk buf, Transmitter.powerOn_inv cfg⟩

/-- Settles O51: the invariants hold at power-on and every step keeps them; items 6 and 8 of R39 are read off
from `tx_cur` = 0 being READY and from READY, BUSY and DEAD being all there is. -/
theorem reachableStatesSatisfyR39 : Obligations.ReachableStatesSatisfyR39 := by
  intro cfg clk buf env n s hcfg hrun
  obtain ⟨-, hrx, htx⟩ : s.Inv :=
    runSteps_induction (fun hs hstep => stepKeepsTheInvariants _ _ hs hstep)
      (State.powerOn_inv hcfg clk buf env) hrun
  refine ⟨hrx.index_le_cap, hrx.active_iff_index_pos, hrx.idle_empty, hrx.clk_le_deadline,
    htx.txq_le_depth, ⟨htx.busy_iff_train, fun hbusy hcur => ?_⟩, htx.enq_pop, ?_⟩
  · simpa [hbusy] using htx.ready_iff_cur_zero.2 hcur
  · rw [htx.pop_done]
    cases s.tx.dispState <;> rfl

/-! ### The receive mode, the ports and the counters (10 R18, R41, R40) -/

/-- Settles O15: of the eleven ways of `State.BlockStep` only SETMODE's and RESET's write `rx_mode`. -/
theorem receiveModeChangesOnlyBySetmodeOrReset : Obligations.ReceiveModeChangesOnlyBySetmodeOrReset := by
  intro s t hstep hchanged
  cases step_blockStep hstep with
  | reset _ hsched => exact .inl ⟨_, hsched⟩
  | setmode mode _ hsched hhost hdecode _ => exact .inr ⟨_, _, _, _, hsched, hhost, hdecode⟩
  | edge x => exact absurd (s.rx.edge_frame s.cfg x).1 hchanged
  | _ => exact absurd rfl hchanged

/-- From `p` to `q` no port lost an entry. -/
structure Ports.Grows (p q : Ports) : Prop where
  rxOut_prefix : p.rxOut <+: q.rxOut
  txOut_prefix : p.txOut <+: q.txOut
  logOut_prefix : p.logOut <+: q.logOut

theorem Ports.Grows.refl (p : Ports) : p.Grows p :=
  ⟨List.prefix_rfl, List.prefix_rfl, List.prefix_rfl⟩

theorem Ports.Grows.trans {p q r : Ports} (h : p.Grows q) (h' : q.Grows r) : p.Grows r :=
  ⟨h.rxOut_prefix.trans h'.rxOut_prefix, h.txOut_prefix.trans h'.txOut_prefix,
    h.logOut_prefix.trans h'.logOut_prefix⟩

/-- Every step only appends to the ports, RESET included (10 R41). -/
theorem State.BlockStep.ports_grows {s t : State} (h : s.BlockStep t) : s.ports.Grows t.ports := by
  cases h with
  | delivered | failed | died | finished => constructor <;> simp
  | _ => exact .refl _

/-- Settles O56: each step only appends, and appending composes over a run. -/
theorem portsOnlyGrow : Obligations.PortsOnlyGrow := by
  intro n s t hrun
  have hgrows : s.ports.Grows t.ports :=
    runSteps_induction (P := fun u => s.ports.Grows u.ports)
      (fun hu hstep => hu.trans (step_blockStep hstep).ports_grows) (.refl _) hrun
  exact ⟨hgrows.rxOut_prefix, hgrows.txOut_prefix, hgrows.logOut_prefix⟩

/-- The six 32-bit counters (10 R40). -/
def counters : List (State → Word) :=
  [(·.rx.rxMsgCount), (·.rx.rxFailCount), (·.tx.txEnqCount), (·.tx.txPopCount), (·.tx.txDoneCount),
    (·.cmd.illegalCount)]

/-- What a step from `s` may make of a counter that reads `c`. -/
def State.CountStep (s : State) (c d : Word) : Prop :=
  d = c ∨ d = c + 1 ∨ (d = 0 ∧ ∃ rest, s.env.sched = .reset :: rest)

/-- Every step leaves each counter, adds one, or, only as RESET, clears it (10 R40). -/
theorem State.BlockStep.countStep {s t : State} (h : s.BlockStep t) :
    ∀ c ∈ counters, s.CountStep (c s) (c t) := by
  cases h with
  | reset _ hsched =>
    simp [counters, State.CountStep, hsched, Receiver.powerOn, Transmitter.powerOn, CommandStatus.powerOn]
  | _ => simp [counters, State.CountStep]

/-- Settles O57: `State.BlockStep.countStep` with the 32-bit sum read as a number. -/
theorem countersWrap : Obligations.CountersWrap := by
  intro s t hstep c hc
  rcases (step_blockStep hstep).countStep c hc with h | h | h
  · exact .inl h
  · exact .inr (.inl (by rw [h, BitVec.toNat_add]; rfl))
  · exact .inr (.inr h)

/-! ### STATUS (10 R38) -/

section

variable (s : State)

theorem State.status_rxMode : s.status.extractLsb' 0 2 = s.rx.rxMode.bits := by
  simp (disch := decide) only [State.status, HAppend.hAppend, extractLsb'_bitVecAppend_low]
  simp

theorem State.status_rxIndex : s.status.extractLsb' 8 7 = BitVec.ofNat 7 s.rx.rxIndex := by
  simp (disch := decide) only [State.status, HAppend.hAppend, extractLsb'_bitVecAppend_low,
    extractLsb'_bitVecAppend_high]
  simp

theorem State.status_txqCount : s.status.extractLsb' 16 8 = BitVec.ofNat 8 s.tx.txq.length := by
  simp (disch := decide) only [State.status, HAppend.hAppend, extractLsb'_bitVecAppend_low,
    extractLsb'_bitVecAppend_high]
  simp

theorem State.status_reservedHigh : s.status.extractLsb' 24 8 = 0 := by
  simp (disch := decide) only [State.status, HAppend.hAppend, extractLsb'_bitVecAppend_high]
  simp

/-- The flags and reserved bits of the low half: one bit each. -/
theorem State.status_bits :
    s.status.getLsbD 2 = s.rx.frameActive ∧ s.status.getLsbD 3 = s.tx.txBusy ∧
    s.status.getLsbD 4 = s.tx.txDead ∧ s.status.getLsbD 5 = s.cmd.cmdIllegal ∧
    s.status.getLsbD 6 = s.tx.toggle ∧ s.status.getLsbD 7 = false ∧ s.status.getLsbD 15 = false := by
  simp only [State.status, HAppend.hAppend, getLsbD_bitVecAppend]
  simp

end

/-- Settles O12: field by field; the widths of RX_INDEX and TXQ_COUNT are where the hypotheses are used. -/
theorem statusFieldsAreLiveViews : Obligations.StatusFieldsAreLiveViews := by
  intro s hindex hlength
  obtain ⟨hactive, hbusy, hdead, hillegal, htoggle, h7, h15⟩ := s.status_bits
  refine ⟨?mode, hactive, ?busy, ?dead, hillegal, htoggle, h7, ?index, h15, ?count, s.status_reservedHigh⟩
  case mode =>
    rw [s.status_rxMode]
    cases s.rx.rxMode <;> rfl
  case busy => simp only [hbusy, Transmitter.txBusy, decide_eq_true_eq]
  case dead => simp only [hdead, Transmitter.txDead, decide_eq_true_eq]
  case index => rw [s.status_rxIndex, BitVec.toNat_ofNat, Nat.mod_eq_of_lt hindex]
  case count => rw [s.status_txqCount, BitVec.toNat_ofNat, Nat.mod_eq_of_lt hlength]

/-! ### The decoders read differences only (42 R90, 43 R100) -/

/-- The two buffers are equally long and every duration inside them is the same (42 R90, 43 R100). A duration
past the end is the model's own value (log entry 18), which a decoder must not read. -/
structure SameDurations (S T : List Timestamp) : Prop where
  length_eq : T.length = S.length
  dur_eq : ∀ i < S.length, dur T i = dur S i

theorem sameDurations_shift (S : List Timestamp) (x : Timestamp) : SameDurations S (S.map (· + x)) where
  length_eq := List.length_map _
  dur_eq i hi := by
    rw [Machine.dur_eq hi, Machine.dur_eq (by simpa using hi), List.getElem_map, List.getElem_map,
      add_sub_add_right_eq_sub]

section

variable {S T : List Timestamp} {ties : TieRule}

/-- The data pairs from `k` on, as long as they lie in the buffer (42 R93). -/
theorem SameDurations.necBits_eq (h : SameDurations S T) (m k : Nat) (v : Word)
    (hk : 2 * (k + m) + 2 < S.length) : necBits T m k v = necBits S m k v := by
  induction m generalizing k v with
  | zero => rfl
  | succ m ih =>
    have hmark : necMarkOk T k = necMarkOk S k := by rw [necMarkOk, h.dur_eq _ (by omega), necMarkOk]
    have hbit : necBit T k = necBit S k := by rw [necBit, h.dur_eq _ (by omega), necBit]
    rw [necBits, hmark, hbit, ih _ _ (by omega), necBits]

theorem SameDurations.necDecode_eq (h : SameDurations S T) : necDecode T = necDecode S := by
  unfold necDecode
  rw [h.length_eq]
  by_cases h3 : S.length < 3
  · simp only [h3, if_true]
  have hleader : necLeaderOk T = necLeaderOk S := by
    simp only [necLeaderOk, h.dur_eq 1 (by omega), h.dur_eq 2 (by omega)]
  rw [hleader]
  by_cases hpairs : necPairCount S.length < 32
  · simp only [hpairs, if_true]
  rw [h.necBits_eq 32 0 0 (by unfold necPairCount at hpairs; omega)]

theorem SameDurations.rc6Bit_eq (h : SameDurations S T) (w : Nat) (c : Rc6Cursor) :
    rc6Bit ties T w c = rc6Bit ties S w c := by
  unfold rc6Bit
  rw [h.length_eq]
  by_cases hfirst : S.length ≤ c.next
  · simp only [hfirst, if_true]
  rw [h.dur_eq c.next (by omega)]
  by_cases hsecond : S.length ≤ c.next + 1
  · simp only [hsecond, if_true]
  rw [h.dur_eq (c.next + 1) (by omega)]

theorem SameDurations.rc6Bits_eq (h : SameDurations S T) (m k : Nat) (c : Rc6Cursor) :
    rc6Bits ties T m k c = rc6Bits ties S m k c := by
  induction m generalizing k c with
  | zero => rfl
  | succ m ih => simp only [rc6Bits, h.rc6Bit_eq, funext (ih (k + 1))]

theorem SameDurations.rc6LastHalf_eq (h : SameDurations S T) (c : Rc6Cursor) :
    rc6LastHalf ties T c = rc6LastHalf ties S c := by
  unfold rc6LastHalf
  rw [h.length_eq]
  by_cases hi : c.next < S.length
  · rw [h.dur_eq _ hi]
  · simp only [hi, and_false, if_false]

theorem SameDurations.rc6GapOk_eq (h : SameDurations S T) (i : Nat) : rc6GapOk ties T i = rc6GapOk ties S i := by
  unfold rc6GapOk
  rw [h.length_eq]
  by_cases hi : i < S.length
  · rw [h.dur_eq i hi]
  · simp only [hi, if_false]

theorem SameDurations.rc6Decode_eq (h : SameDurations S T) : rc6Decode ties T = rc6Decode ties S := by
  unfold rc6Decode
  rw [h.length_eq]
  by_cases h4 : S.length < 4
  · simp only [h4, if_true]
  have hleader : rc6LeaderOk T = rc6LeaderOk S := by
    simp only [rc6LeaderOk, h.dur_eq 1 (by omega), h.dur_eq 2 (by omega)]
  simp only [hleader, h.dur_eq 3 (by omega), h.rc6Bits_eq, h.rc6LastHalf_eq, h.rc6GapOk_eq]

end

/-- Settles O29: a shift by `x` keeps every duration that lies in the buffer, and no decoder reads another. -/
theorem decodersReadOnlyDifferences : Obligations.DecodersReadOnlyDifferences := fun _ S x =>
  ⟨(sameDurations_shift S x).necDecode_eq, (sameDurations_shift S x).rc6Decode_eq⟩

end Sys2Proof.Machine

end

/-! # The register window and HOST's step (20_memory.md R45 to R53)

HOST's step is said once per kind of access (`step_read`, `step_write_busError`, `step_write_command`); which
accesses are legal comes down to the register they name (`windowTarget_eq_some_iff`). -/

section

namespace Sys2Proof.Machine

/-! ### Byte lanes (R46) -/

theorem getLsbD_byteLane (w : Word) (k : Nat) {j : Nat} (hj : j < 8) :
    (byteLane w k).getLsbD j = w.getLsbD (8 * k + j) := by
  simp [byteLane, hj]

theorem wordOfBytes_byteLane (w : Word) :
    wordOfBytes (byteLane w 0) (byteLane w 1) (byteLane w 2) (byteLane w 3) = w := by
  unfold wordOfBytes byteLane
  iterate 3 rw [BitVec.extractLsb'_append_extractLsb'_eq_extractLsb' (by rfl)]
  simp

/-- Settles O6: a lane is an extract of the word, and adjacent extracts append to one. -/
theorem byteLanesAreLittleEndian : Obligations.ByteLanesAreLittleEndian := fun w =>
  ⟨fun k _ _ hj => getLsbD_byteLane w k hj, wordOfBytes_byteLane w⟩

/-! ### The register map (R45, R47 to R49) -/

theorem Reg.offset_mod_four (r : Reg) : r.offset % 4 = 0 := by cases r <;> rfl

theorem Reg.offset_le (r : Reg) : r.offset ≤ 0x28 := by cases r <;> decide

theorem Reg.offset_eq_zero_iff {r : Reg} : r.offset = 0 ↔ r = .cmd := by cases r <;> simp [Reg.offset]

theorem Reg.ofOffset_eq_some_iff {o : Nat} {r : Reg} : Reg.ofOffset o = some r ↔ o = r.offset := by
  constructor
  · intro h
    have hoffset := List.find?_some (p := fun r : Reg => r.offset == o) h
    exact (beq_iff_eq.1 hoffset).symm
  · rintro rfl
    cases r <;> rfl

/-- A legal access names a register exactly when it is 4 bytes at the register's own address. -/
theorem windowTarget_eq_some_iff {cfg : Config} {addr n : Nat} {r : Reg} :
    windowTarget cfg addr n = some r ↔ n = 4 ∧ addr = cfg.mmioBase + r.offset := by
  unfold windowTarget
  split_ifs with h
  · rw [Reg.ofOffset_eq_some_iff]
    omega
  · refine iff_of_false nofun ?_
    omega

/-! ### The value of a read (R50, R52) -/

theorem State.readReg_eq_none_iff {s : State} {r : Reg} : s.readReg r = none ↔ r = .cmd := by
  cases r <;> simp [State.readReg]

theorem State.memRead_offset (s : State) (r : Reg) :
    s.memRead (s.cfg.mmioBase + r.offset) 4 = s.readReg r := by
  rw [State.memRead, windowTarget_eq_some_iff.2 ⟨rfl, rfl⟩, Option.bind_some]

/-- A read fails exactly when it names no register, or CMD (R49). -/
theorem State.memRead_eq_none_iff {s : State} {addr n : Nat} :
    s.memRead addr n = none ↔ ∀ r : Reg, n = 4 → addr = s.cfg.mmioBase + r.offset → r = .cmd := by
  simp only [State.memRead, Option.bind_eq_none_iff, windowTarget_eq_some_iff, and_imp,
    State.readReg_eq_none_iff]

/-- A read looks at the parameters and the block, and at nothing of the world's part. -/
theorem State.memRead_congr {s t : State} (hcfg : t.cfg = s.cfg) (hrx : t.rx = s.rx) (htx : t.tx = s.tx)
    (hcmd : t.cmd = s.cmd) (addr n : Nat) : t.memRead addr n = s.memRead addr n := by
  have hreg : t.readReg = s.readReg := by
    funext r
    cases r <;> simp only [State.readReg, State.status, hrx, htx, hcmd]
  rw [State.memRead, State.memRead, hcfg, hreg]

@[simp] theorem State.memRead_afterEvent (s : State) (rest : List Event) (addr n : Nat) :
    (s.afterEvent rest).memRead addr n = s.memRead addr n :=
  State.memRead_congr rfl rfl rfl rfl addr n

@[simp] theorem State.memRead_answer (s : State) (a : HostReply) (addr n : Nat) :
    (s.answer a).memRead addr n = s.memRead addr n :=
  State.memRead_congr rfl rfl rfl rfl addr n

theorem State.hostRead_of_some {s : State} {addr n : Nat} {v : Word} (h : s.memRead addr n = some v) :
    s.hostRead addr n = s.answer (.value v) := by
  simp [State.hostRead, h]

theorem State.hostRead_of_none {s : State} {addr n : Nat} (h : s.memRead addr n = none) :
    s.hostRead addr n = s.answer (.busError addr n .read) := by
  simp [State.hostRead, h, State.raise]

/-- The readable registers, each with its offset and its present value, in the order of R45. -/
def State.readable (s : State) : List (Nat × Word) :=
  Reg.all.filterMap fun r => (s.readReg r).map fun v => (r.offset, v)

theorem State.memRead_of_mem_readable {s : State} {o : Nat} {v : Word} (h : (o, v) ∈ s.readable) :
    s.memRead (s.cfg.mmioBase + o) 4 = some v := by
  obtain ⟨r, -, hr⟩ := List.mem_filterMap.1 h
  obtain ⟨u, hu, hpair⟩ := Option.map_eq_some_iff.1 hr
  cases hpair
  rw [s.memRead_offset, hu]

/-! ### HOST's step, by kind of access (R50, R51, R53) -/

/-- A command waits or not by the FIFO and its depth alone (45 R131). -/
theorem commandHeld_congr {s t : State} (hcfg : t.cfg = s.cfg) (htx : t.tx = s.tx) (i : Instr) :
    commandHeld i t = commandHeld i s := by
  simp only [commandHeld, State.hasRoom, hcfg, htx]

section

variable {s : State} {rest : List Event} {more : List HostAccess} {addr n : Nat} {v w : Word} {i : Instr}

/-- An access that waits uses up HOST's schedule entry and no more; any other is performed whole. -/
theorem step_host {a : HostAccess} (hsched : s.env.sched = .host :: rest) (hhost : s.env.host = a :: more) :
    step s = if (s.afterEvent rest).accessHeld a then .next (s.afterEvent rest)
      else (s.afterEvent rest).takeHost := by
  rw [step_of_sched hsched]
  cases hheld : (s.afterEvent rest).accessHeld a <;>
    simp [Event.step, Event.enabled, Event.take, State.hostEnabled, hhost, hheld]

theorem step_read (hsched : s.env.sched = .host :: rest) (hhost : s.env.host = .read addr n :: more) :
    step s = .next ((s.afterEvent rest).hostRead addr n) := by
  rw [step_host hsched hhost]
  simp [State.accessHeld, State.takeHost, hhost]

theorem step_write_busError (hsched : s.env.sched = .host :: rest)
    (hhost : s.env.host = .write addr n v :: more) (hcmd : ¬(n = 4 ∧ addr = s.cfg.mmioBase)) :
    step s = .next ((s.afterEvent rest).answer (.busError addr n .write)) := by
  have hbad : windowWritesCmd s.cfg addr n = false := by
    rwa [← windowWritesCmd_iff, Bool.not_eq_true] at hcmd
  rw [step_host hsched hhost]
  simp [State.accessHeld, State.takeHost, hhost, State.hostWrite, hbad, State.raise]

theorem step_write_command (hsched : s.env.sched = .host :: rest)
    (hhost : s.env.host = .write s.cfg.mmioBase 4 w :: more) (hdecode : decode w = .command i) :
    step s = if commandHeld i s then .next (s.afterEvent rest)
      else exec i ((s.afterEvent rest).answer .done) := by
  have hheld : (s.afterEvent rest).accessHeld (.write s.cfg.mmioBase 4 w) = commandHeld i s :=
    (State.accessHeld_command _ w i hdecode).trans (commandHeld_congr rfl rfl i)
  have htake : (s.afterEvent rest).takeHost = exec i ((s.afterEvent rest).answer .done) := by
    simp [State.takeHost, hhost, State.hostWrite, (windowWritesCmd_iff _ _ _).2, State.hostCommand, hdecode]
  rw [step_host hsched hhost, hheld, htake]

end

/-! ### Every access is answered as R49 to R52 say -/

/-- Settles O10: a legal read names a register other than CMD, whose offset is a positive multiple of 4 up to
0x28, and a legal write names CMD. -/
theorem busErrorHasNoEffect : Obligations.BusErrorHasNoEffect := by
  intro s addr n v rest more hsched
  constructor
  · intro hhost hbad
    have hread : s.memRead addr n = none := by
      refine State.memRead_eq_none_iff.2 fun r hn haddr => Reg.offset_eq_zero_iff.1 ?_
      have hmod := r.offset_mod_four
      have hle := r.offset_le
      omega
    rw [step_read hsched hhost, State.hostRead_of_none (by simpa using hread)]
  · intro hhost hbad
    exact step_write_busError hsched hhost (by omega)

/-- Settles O11: the ten offsets are those of the readable registers, and an answer is none of the parts that
a read looks at. -/
theorem readAnswersTheLiveValueAndChangesNothing :
    Obligations.ReadAnswersTheLiveValueAndChangesNothing := by
  intro s o v rest more hmem hsched hhost
  have hread : s.memRead (s.cfg.mmioBase + o) 4 = some v := State.memRead_of_mem_readable hmem
  refine ⟨(s.afterEvent rest).answer (.value v), ?_, rfl, rfl, rfl, rfl, rfl, by simp⟩
  rw [step_read hsched hhost, State.hostRead_of_some (by simpa using hread)]

/-! ### A CMD write runs its command (R51) -/

/-- The table's reading of a word is the decoder's: the lanes of a word are the word (30 R66). -/
theorem decodeTableWord_eq_some_iff {nbits w : Nat} {i : Instr} :
    decodeTableWord nbits w = some i ↔ decode (wordOfBits nbits w) = .command i := by
  rw [decodeTableWord, decodeBytes_wordBytes]
  cases decode (wordOfBits nbits w) <;> simp [Decoded.toOption]

/-- Settles O8: the second clause is the first, at the access and the schedule entry that `withFetchWord`
places; using up the one and answering the other leaves both lists as they were. -/
theorem stepRunsTheDecodedCommand : Obligations.StepRunsTheDecodedCommand := by
  refine ⟨fun s i w rest more hsched hhost hdecode => step_write_command hsched hhost hdecode, ?_⟩
  intro s i nbits w hdecode hheld
  have hheld' : commandHeld i (s.withFetchWord nbits w) = commandHeld i s := commandHeld_congr rfl rfl i
  rw [step_write_command (s := s.withFetchWord nbits w) rfl rfl (decodeTableWord_eq_some_iff.1 hdecode),
    hheld', hheld, if_neg Bool.false_ne_true]
  rfl

end Sys2Proof.Machine

end

/-! # Command words (30_encoding.md R61 to R71)

Decoder and encoder are inverse to each other (`decode_eq_command_iff`): a command's word has the command's
fields (`fields_encode_setmode` and its two companions), and the fields of a word append to the word. What the
rules say in numbers is carried over field by field (`extractLsb'_eq_iff_toNat`) and, for a word put together
from its fields, append by append (`toNat_bitVecAppend`). -/

section

namespace Sys2Proof.Machine

/-! ### Packed words as numbers (00 R7) -/

theorem toNat_bitVecAppend {v w : Nat} (x : BitVec v) (y : BitVec w) :
    (BitVec.append x y).toNat = x.toNat * 2 ^ w + y.toNat := by
  calc (BitVec.append x y).toNat = x.toNat <<< w ||| y.toNat := BitVec.toNat_append x y
    _ = x.toNat <<< w + y.toNat := (Nat.shiftLeft_add_eq_or_of_lt y.isLt _).symm
    _ = x.toNat * 2 ^ w + y.toNat := by rw [Nat.shiftLeft_eq]

theorem extractLsb'_eq_iff_toNat {v i n : Nat} {x : BitVec v} {y : BitVec n} :
    x.extractLsb' i n = y ↔ x.toNat / 2 ^ i % 2 ^ n = y.toNat := by
  rw [← BitVec.toNat_inj, BitVec.extractLsb'_toNat, Nat.shiftRight_eq_div_pow]

/-- OP is the highest field, so its value is a quotient alone (R62). -/
theorem opField_eq_iff_toNat {w : Word} {op : BitVec 4} : opField w = op ↔ w.toNat / 2 ^ 28 = op.toNat := by
  rw [opField, extractLsb'_eq_iff_toNat, Nat.mod_eq_of_lt]
  have hw := w.isLt
  omega

/-! ### The fields of a command's word (R63 to R65) -/

theorem fields_encode_setmode (mode : BitVec 2) :
    opField (encode (.setmode mode)) = 0x1#4 ∧ (encode (.setmode mode)).extractLsb' 2 26 = 0 ∧
    (encode (.setmode mode)).extractLsb' 0 2 = mode := by
  simp (disch := decide) only [encode, opField, HAppend.hAppend, extractLsb'_bitVecAppend_low,
    extractLsb'_bitVecAppend_high]
  simp

theorem fields_encode_enqnec (dev cmd : Byte) :
    opField (encode (.enqnec dev cmd)) = 0x2#4 ∧ (encode (.enqnec dev cmd)).extractLsb' 16 12 = 0 ∧
    (encode (.enqnec dev cmd)).extractLsb' 8 8 = dev ∧ (encode (.enqnec dev cmd)).extractLsb' 0 8 = cmd := by
  simp (disch := decide) only [encode, opField, HAppend.hAppend, extractLsb'_bitVecAppend_low,
    extractLsb'_bitVecAppend_high]
  simp

theorem fields_encode_enqrc6 (mode : BitVec 3) (ctrl info : Byte) :
    opField (encode (.enqrc6 mode ctrl info)) = 0x3#4 ∧
    (encode (.enqrc6 mode ctrl info)).extractLsb' 19 9 = 0 ∧
    (encode (.enqrc6 mode ctrl info)).extractLsb' 16 3 = mode ∧
    (encode (.enqrc6 mode ctrl info)).extractLsb' 8 8 = ctrl ∧
    (encode (.enqrc6 mode ctrl info)).extractLsb' 0 8 = info := by
  simp (disch := decide) only [encode, opField, HAppend.hAppend, extractLsb'_bitVecAppend_low,
    extractLsb'_bitVecAppend_high]
  simp

/-! ### Decoder and encoder (R66, R69) -/

theorem decode_encode {i : Instr} (h : i.wellFormed = true) : decode (encode i) = .command i := by
  cases i with
  | setmode mode =>
    obtain ⟨hop, hzero, hmode⟩ := fields_encode_setmode mode
    have hlegal : mode ≠ 3 := bne_iff_ne.1 h
    simp only [decode, hop, hzero, hmode, hlegal, ne_eq, not_true, if_true, if_false]
  | enqnec dev cmd =>
    obtain ⟨hop, hzero, hdev, hcmd⟩ := fields_encode_enqnec dev cmd
    simp [decode, hop, hzero, hdev, hcmd]
  | enqrc6 mode ctrl info =>
    obtain ⟨hop, hzero, hmode, hctrl, hinfo⟩ := fields_encode_enqrc6 mode ctrl info
    simp [decode, hop, hzero, hmode, hctrl, hinfo]

/-- The fields from which the decoder reads a SETMODE (R63). -/
theorem decode_eq_setmode_iff {w : Word} {mode : BitVec 2} :
    decode w = .command (.setmode mode) ↔
      opField w = 0x1#4 ∧ w.extractLsb' 2 26 = 0 ∧ w.extractLsb' 0 2 = mode ∧ mode ≠ 3 := by
  unfold decode
  constructor
  · intro h
    split_ifs at h with hop hzero hthree
    all_goals cases h
    exact ⟨hop, not_not.1 hzero, rfl, hthree⟩
  · rintro ⟨hop, hzero, rfl, hthree⟩
    rw [if_pos hop, if_neg (not_not.2 hzero), if_neg hthree]

/-- The converse of `decode_encode` (R66, R69). -/
theorem wellFormed_and_encode_of_decode {w : Word} {i : Instr} (h : decode w = .command i) :
    i.wellFormed = true ∧ encode i = w := by
  cases i with
  | setmode mode =>
    obtain ⟨hop, hzero, hmode, hthree⟩ := decode_eq_setmode_iff.1 h
    refine ⟨bne_iff_ne.2 hthree, ?_⟩
    calc encode (.setmode mode) = opField w ++ w.extractLsb' 2 26 ++ w.extractLsb' 0 2 := by
          rw [hop, hzero, hmode]
          rfl
      _ = w := by
          rw [opField]
          iterate 2 rw [BitVec.extractLsb'_append_extractLsb'_eq_extractLsb' (by rfl)]
          simp
  | enqnec dev cmd => exact ⟨rfl, encode_of_decode_request h nofun⟩
  | enqrc6 mode ctrl info => exact ⟨rfl, encode_of_decode_request h nofun⟩

theorem decode_eq_command_iff {w : Word} {i : Instr} :
    decode w = .command i ↔ i.wellFormed = true ∧ encode i = w := by
  refine ⟨wellFormed_and_encode_of_decode, ?_⟩
  rintro ⟨h, rfl⟩
  exact decode_encode h

/-- Settles O1: the fields of a command's word are the command's, and the lanes of a word are the word. -/
theorem decodeOfEncodeIsTheCommand : Obligations.DecodeOfEncodeIsTheCommand := fun i h =>
  ⟨decode_encode h, (decodeBytes_wordBytes (encode i)).trans (decode_encode h)⟩

/-- Settles O2: the fields of a decoded word append to the word. -/
theorem commandWordIsUnique : Obligations.CommandWordIsUnique := fun _ _ => decode_eq_command_iff.1

/-! ### Illegal words (R67, R68) -/

/-- A check of the decoder refuses a word that fails it and leaves the others to what follows. -/
theorem exists_ite_eq_illegal_iff {c : Prop} [Decidable c] {a : IllegalWord} {d : Decoded} :
    (∃ why, (if c then .illegal a else d) = .illegal why) ↔ c ∨ ∃ why, d = .illegal why := by
  by_cases h : c <;> simp [h]

/-- The decoder's refusals by the fields of the word: the four clauses of R67. -/
theorem exists_decode_eq_illegal_iff (w : Word) :
    (∃ why, decode w = .illegal why) ↔
      (opField w ≠ 0x1#4 ∧ opField w ≠ 0x2#4 ∧ opField w ≠ 0x3#4) ∨
      (opField w = 0x1#4 ∧ (w.extractLsb' 2 26 ≠ 0 ∨ w.extractLsb' 0 2 = 3)) ∨
      (opField w = 0x2#4 ∧ w.extractLsb' 16 12 ≠ 0) ∨
      (opField w = 0x3#4 ∧ w.extractLsb' 19 9 ≠ 0) := by
  by_cases hset : opField w = 0x1#4
  · rw [decode, if_pos hset, exists_ite_eq_illegal_iff, exists_ite_eq_illegal_iff]
    simp [hset]
  by_cases hnec : opField w = 0x2#4
  · rw [decode, if_neg hset, if_pos hnec, exists_ite_eq_illegal_iff]
    simp [hnec]
  by_cases hrc6 : opField w = 0x3#4
  · rw [decode, if_neg hset, if_neg hnec, if_pos hrc6, exists_ite_eq_illegal_iff]
    simp [hrc6]
  · rw [decode, if_neg hset, if_neg hnec, if_neg hrc6]
    simp [hset, hnec, hrc6]

theorem State.hostCommand_of_illegal {w : Word} {why : IllegalWord} (h : decode w = .illegal why)
    (s : State) : s.hostCommand w = .next ((s.answer .done).raise .illegalCommand) := by
  simp [State.hostCommand, h]

/-- Settles O3: the clauses by fields, each field as a quotient and remainder of the word's value. -/
theorem illegalWordsExactly : Obligations.IllegalWordsExactly := by
  intro w
  refine ⟨?_, fun why h s => State.hostCommand_of_illegal h s⟩
  rw [exists_decode_eq_illegal_iff]
  simp only [ne_eq, opField_eq_iff_toNat, extractLsb'_eq_iff_toNat, pow_zero, Nat.div_one]
  rfl

theorem ReceiveMode.ofBits_eq_none_iff {mode : BitVec 2} : ReceiveMode.ofBits mode = none ↔ mode = 3 := by
  revert mode
  decide

/-- A legal command that is not held clears `cmd_illegal` and keeps the count (R68). -/
theorem exec_cmd_of_wellFormed {i : Instr} {s : State} (hlegal : i.wellFormed = true)
    (hheld : commandHeld i s = false) :
    ∃ t, exec i s = .next t ∧ t.cmd = { s.cmd with cmdIllegal := false } := by
  rcases exec_cases i s with ⟨_, mode, -, -, e⟩ | ⟨mode, rfl, hmode, -⟩ | ⟨-, -, -, e⟩ | ⟨-, hwaits, -, -⟩
  · exact ⟨s.setReceiveMode mode, e, rfl⟩
  · exact absurd (ReceiveMode.ofBits_eq_none_iff.1 hmode) (bne_iff_ne.1 hlegal)
  · exact ⟨s.acceptRequest (encode i), e, rfl⟩
  · cases hheld.symm.trans hwaits

theorem step_write_illegal {s : State} {rest : List Event} {more : List HostAccess} {w : Word}
    {why : IllegalWord} (hsched : s.env.sched = .host :: rest)
    (hhost : s.env.host = .write s.cfg.mmioBase 4 w :: more) (h : decode w = .illegal why) :
    step s = .next (((s.afterEvent rest).answer .done).raise .illegalCommand) := by
  have htake : (s.afterEvent rest).takeHost = (s.afterEvent rest).hostCommand w := by
    simp [State.takeHost, hhost, State.hostWrite, (windowWritesCmd_iff _ _ _).2]
  rw [step_host hsched hhost, htake, State.hostCommand_of_illegal h]
  simp [State.accessHeld, h]

/-- Settles O9: HOST's step on an illegal word raises IllegalCommand, and on a legal one runs the command. -/
theorem illegalWordSetsOnlyItsTwoFields : Obligations.IllegalWordSetsOnlyItsTwoFields := by
  intro s w rest more hsched hhost
  refine ⟨fun why h => step_write_illegal hsched hhost h, fun i h hheld => ?_⟩
  rw [step_write_command hsched hhost h, hheld, if_neg Bool.false_ne_true]
  exact exec_cmd_of_wellFormed (wellFormed_and_encode_of_decode h).1
    ((commandHeld_congr rfl rfl i).trans hheld)

/-- Settles O14: its word is refused for MODE = 3, which binds no receive mode. -/
theorem setmodeThreeIsIllegal : Obligations.SetmodeThreeIsIllegal := fun _ =>
  ⟨⟨.setmodeModeThree, rfl⟩, rfl⟩

/-! ### The assembler (R71, R72) -/

theorem encode_enqnec_eq_ofNat (dev cmd : Byte) :
    encode (.enqnec dev cmd) = BitVec.ofNat 32 (0x20000000 + dev.toNat * 2 ^ 8 + cmd.toNat) := by
  apply BitVec.eq_of_toNat_eq
  simp only [encode, HAppend.hAppend, toNat_bitVecAppend, BitVec.toNat_ofNat]
  omega

theorem encode_enqrc6_eq_ofNat (mode : BitVec 3) (ctrl info : Byte) :
    encode (.enqrc6 mode ctrl info) =
      BitVec.ofNat 32 (0x30000000 + mode.toNat * 2 ^ 16 + ctrl.toNat * 2 ^ 8 + info.toNat) := by
  apply BitVec.eq_of_toNat_eq
  simp only [encode, HAppend.hAppend, toNat_bitVecAppend, BitVec.toNat_ofNat]
  omega

theorem asmEnqnec_map_encode (dev cmd : Nat) :
    (asmEnqnec dev cmd).map encode =
      if dev ≤ 255 ∧ cmd ≤ 255 then some (BitVec.ofNat 32 (0x20000000 + dev * 2 ^ 8 + cmd)) else none := by
  unfold asmEnqnec
  by_cases h : dev < 256 ∧ cmd < 256
  · rw [if_pos h, if_pos (by omega), Option.map_some, encode_enqnec_eq_ofNat, BitVec.toNat_ofNat,
      BitVec.toNat_ofNat, Nat.mod_eq_of_lt h.1, Nat.mod_eq_of_lt h.2]
  · rw [if_neg h, if_neg (by omega), Option.map_none]

theorem asmEnqrc6_map_encode (mode ctrl info : Nat) :
    (asmEnqrc6 mode ctrl info).map encode =
      if mode ≤ 7 ∧ ctrl ≤ 255 ∧ info ≤ 255 then
        some (BitVec.ofNat 32 (0x30000000 + mode * 2 ^ 16 + ctrl * 2 ^ 8 + info)) else none := by
  unfold asmEnqrc6
  by_cases h : mode < 8 ∧ ctrl < 256 ∧ info < 256
  · obtain ⟨hmode, hctrl, hinfo⟩ := h
    rw [if_pos ⟨hmode, hctrl, hinfo⟩, if_pos (by omega), Option.map_some, encode_enqrc6_eq_ofNat,
      BitVec.toNat_ofNat, BitVec.toNat_ofNat, BitVec.toNat_ofNat, Nat.mod_eq_of_lt hmode,
      Nat.mod_eq_of_lt hctrl, Nat.mod_eq_of_lt hinfo]
  · rw [if_neg h, if_neg (by omega), Option.map_none]

/-- Settles O7: the four SETMODE lines by their words, an ENQ line by the value of its word. -/
theorem assemblerGivesTheWordOrRefuses : Obligations.AssemblerGivesTheWordOrRefuses :=
  ⟨⟨rfl, rfl, rfl, rfl⟩, asmEnqnec_map_encode, asmEnqrc6_map_encode, fun _ _ => rfl⟩

end Sys2Proof.Machine

end

/-! # Edge capture (41_edge_capture.md R74 to R89)

What EDGE(t) does to a frame is said on the true times of its edges (`Receiver.FrameTimes.edge_of_room`): an edge
that finds room becomes the last of them. What IDLE_FIRE does to the receive side beyond the result that it
records is one frame lemma (`State.takeIdleFire_frame`). -/

section

namespace Sys2Proof.Machine

/-! ### EDGE (R77 to R79) -/

section

variable {r : Receiver}

/-- A recorded edge, the first of a frame or a later one (R78). -/
theorem Receiver.edge_of_room (cfg : Config) (t : Nat) (hmode : r.rxMode ≠ .idle)
    (hroom : r.rxIndex < cap r.rxMode) :
    r.edge cfg t = { r with
      clkUs := t
      edgeBuf := r.edgeBuf.setIfInBounds r.rxIndex (sample t)
      rxIndex := r.rxIndex + 1
      frameActive := if r.rxIndex = 0 then true else r.frameActive
      deadline := if r.rxIndex = 0 then t + timeout cfg r.rxMode else r.deadline } := by
  rcases r.edge_cases cfg t with ⟨-, -, h0, e⟩ | ⟨-, -, hpos, e⟩ | ⟨hfull, -⟩
  · rw [e, if_pos h0, if_pos h0]
    rfl
  · rw [e, if_neg hpos, if_neg hpos]
    rfl
  · exact absurd hfull (by simp [hmode, hroom])

/-- An edge that is ignored or dropped (R77, R79). -/
theorem Receiver.edge_of_no_room (cfg : Config) (t : Nat) (h : r.rxMode = .idle ∨ cap r.rxMode ≤ r.rxIndex) :
    r.edge cfg t = r.atTime t := by
  rcases r.edge_cases cfg t with ⟨hmode, hroom, -⟩ | ⟨hmode, hroom, -⟩ | ⟨-, e⟩
  · exact absurd h (by simp [hmode, hroom])
  · exact absurd h (by simp [hmode, hroom])
  · exact e

end

section

variable {s : State} {rest : List Event} {t : Nat}

theorem step_edge (hsched : s.env.sched = .edge t :: rest) (he : s.rx.edgeEnabled t = true) :
    step s = .next ((s.afterEvent rest).takeEdge t) := by
  rw [step_of_sched hsched, Event.step_of_enabled (s := s.afterEvent rest) (e := .edge t) he]
  rfl

theorem step_idleFire (hsched : s.env.sched = .idleFire :: rest) (hactive : s.rx.frameActive = true) :
    step s = .next (s.afterEvent rest).takeIdleFire := by
  rw [step_of_sched hsched, Event.step_of_enabled (s := s.afterEvent rest) (e := .idleFire) hactive]
  rfl

end

/-- In a mode with a timeout, R43's two values. -/
theorem timeout_of_ne_idle (cfg : Config) {mode : ReceiveMode} (h : mode ≠ .idle) :
    timeout cfg mode = if mode = .nec then cfg.necIdleTimeoutUs else cfg.rc6IdleTimeoutUs := by
  cases mode with
  | idle => exact absurd rfl h
  | nec | rc6 => rfl

theorem toList_setIfInBounds_getElem? {n i : Nat} (v : Vector Timestamp n) (h : i < n) (x : Timestamp) :
    (v.setIfInBounds i x).toList[i]? = some x ∧
    ∀ j, j ≠ i → (v.setIfInBounds i x).toList[j]? = v.toList[j]? := by
  rw [Vector.toList_setIfInBounds]
  exact ⟨List.getElem?_set_self (by simpa using h), fun j hj => List.getElem?_set_ne hj.symm⟩

/-- Settles O21: an edge that finds no room is `Receiver.edge_of_no_room`, one that does `Receiver.edge_of_room`. -/
theorem edgeRecordsOrOnlyMovesTime : Obligations.EdgeRecordsOrOnlyMovesTime := by
  intro s x rest hsched
  have henabled := s.rx.edgeEnabled_iff x
  refine ⟨henabled, fun hx => ⟨fun hkept => ?_, fun hmode hroom => ?_⟩⟩
  all_goals rw [step_edge hsched (henabled.2 hx), State.takeEdge, State.afterEvent_cfg, State.afterEvent_rx]
  · rw [Receiver.edge_of_no_room _ _ hkept]
    rfl
  · rw [Receiver.edge_of_room _ _ hmode hroom, timeout_of_ne_idle s.cfg hmode, apply_ite (x + ·)]
    exact ⟨_, rfl, toList_setIfInBounds_getElem? s.rx.edgeBuf (hroom.trans_le (cap_le_slots _)) (sample x)⟩

/-! ### The buffer and the true times of a frame (R78, R81, R82) -/

/-- A sample stored inside the buffer is the next one of the snapshot. -/
theorem Receiver.snapshot_store {r : Receiver} (h : r.rxIndex < edgeBufSlots) (t : Nat) :
    (r.store t).snapshot = r.snapshot ++ [sample t] := by
  have hlength : r.rxIndex < r.edgeBuf.toList.length := by simpa using h
  rw [Receiver.snapshot, Receiver.snapshot, Receiver.store_rxIndex, Receiver.store_edgeBuf,
    Vector.toList_setIfInBounds, List.take_add_one, List.take_set_of_le le_rfl]
  simp [List.getElem?_set_self hlength]

/-- An empty buffer holds the times of no edge. -/
theorem Receiver.frameTimes_nil {cfg : Config} {r : Receiver} (h : r.rxIndex = 0) : r.FrameTimes cfg [] where
  snapshot_eq := by simp [Receiver.snapshot, h, samples]
  length_eq := h.symm
  ordered := .nil
  le_clk := by simp
  deadline_eq := by simp

section

variable {cfg : Config} {r : Receiver} {ts : List Nat} {t : Nat} (h : r.FrameTimes cfg ts)
include h

/-- Time that passes leaves the frame as it is. -/
theorem Receiver.FrameTimes.atTime (ht : r.clkUs ≤ t) : (r.atTime t).FrameTimes cfg ts :=
  ⟨h.snapshot_eq, h.length_eq, h.ordered, fun x hx => (h.le_clk x hx).trans ht, h.deadline_eq⟩

/-- A sample stored at the model time is the frame's last edge, and its first one if the deadline suits. -/
theorem Receiver.FrameTimes.store (hroom : r.rxIndex < edgeBufSlots)
    (hdeadline : ts = [] → r.deadline = r.clkUs + timeout cfg r.rxMode) :
    (r.store r.clkUs).FrameTimes cfg (ts ++ [r.clkUs]) where
  snapshot_eq := by simp [Receiver.snapshot_store hroom, h.snapshot_eq, samples]
  length_eq := by simp [h.length_eq]
  ordered := List.pairwise_append.2 ⟨h.ordered, List.pairwise_singleton _ _, by simpa using h.le_clk⟩
  le_clk := by simpa [or_imp, forall_and] using h.le_clk
  deadline_eq := by
    cases ts with
    | nil => simpa using hdeadline rfl
    | cons x xs => simpa using h.deadline_eq

/-- EDGE(t) with room in the buffer (R78): the first edge of a frame sets the deadline that `FrameTimes` asks
for, and a later one leaves it. -/
theorem Receiver.FrameTimes.edge_of_room (ht : r.clkUs ≤ t) (hmode : r.rxMode ≠ .idle)
    (hroom : r.rxIndex < cap r.rxMode) : (r.edge cfg t).FrameTimes cfg (ts ++ [t]) := by
  have hslots : r.rxIndex < edgeBufSlots := hroom.trans_le (cap_le_slots _)
  have hempty : ts = [] ↔ r.rxIndex = 0 := by rw [← h.length_eq, List.length_eq_zero_iff]
  rcases r.edge_cases cfg t with ⟨-, -, h0, e⟩ | ⟨-, -, hpos, e⟩ | ⟨hfull, -⟩
  · rw [e, hempty.2 h0]
    exact Receiver.FrameTimes.store (r := (r.atTime t).armTimer (t + timeout cfg r.rxMode))
      (Receiver.frameTimes_nil h0) hslots fun _ => rfl
  · rw [e]
    exact (h.atTime ht).store hslots fun hnil => absurd (hempty.1 hnil) hpos
  · exact absurd hfull (by simp [hmode, hroom])

/-- EDGE(t), recorded, dropped or ignored (R77 to R79). -/
theorem Receiver.FrameTimes.exists_edge (ht : r.clkUs ≤ t) : ∃ us, (r.edge cfg t).FrameTimes cfg us := by
  rcases r.edge_cases cfg t with ⟨hmode, hroom, -⟩ | ⟨hmode, hroom, -⟩ | ⟨-, e⟩
  · exact ⟨_, h.edge_of_room ht hmode hroom⟩
  · exact ⟨_, h.edge_of_room ht hmode hroom⟩
  · rw [e]
    exact ⟨ts, h.atTime ht⟩

/-- In a frame that has not run over its deadline, two edges are at most a timeout apart (R78, R82). -/
theorem Receiver.FrameTimes.sub_le_timeout (hclk : r.clkUs ≤ r.deadline) {i j : Nat} (hi : i < ts.length)
    (hj : j < ts.length) : ts[j] - ts[i] ≤ timeout cfg r.rxMode := by
  cases ts with
  | nil => cases hi
  | cons x xs =>
    have hfirst : x ≤ (x :: xs)[i] := by
      rcases List.mem_cons.1 (List.getElem_mem hi) with hx | hx
      · exact hx.ge
      · exact List.rel_of_pairwise_cons h.ordered hx
    have hlast : (x :: xs)[j] ≤ r.clkUs := h.le_clk _ (List.getElem_mem hj)
    have hdeadline : r.deadline = x + timeout cfg r.rxMode := h.deadline_eq x rfl
    omega

end

/-- Settles O26: EDGE keeps the true times or adds one to them, SETMODE, IDLE_FIRE and RESET leave no edge, and
every other way of `State.BlockStep` leaves the receive side. -/
theorem stepKeepsTrueFrameTimes : Obligations.StepKeepsTrueFrameTimes := by
  rintro s t - ⟨ts, hts⟩ hstep
  cases step_blockStep hstep with
  | edge x _ _ he => exact hts.exists_edge ((s.rx.edgeEnabled_iff x).1 he).1
  | setmode | delivered | failed | reset => exact ⟨[], Receiver.frameTimes_nil rfl⟩
  | _ => exact ⟨ts, hts⟩

theorem timeout_lt {cfg : Config} (h : cfg.Valid) (mode : ReceiveMode) : timeout cfg mode < 2 ^ 32 := by
  obtain ⟨⟨-, hnec⟩, ⟨-, hrc6⟩, -⟩ := h
  cases mode with
  | idle => exact Nat.two_pow_pos 32
  | nec => exact hnec
  | rc6 => exact hrc6

/-- Settles O25: the samples of ordered times less than 2^32 µs apart (`dur_samples`). -/
theorem modularDifferencesAreTrueDifferences : Obligations.ModularDifferencesAreTrueDifferences := by
  intro cfg r ts hcfg hts hclk i hpos hi
  have hprev : i - 1 < ts.length := by omega
  rw [hts.snapshot_eq]
  apply dur_samples hi
  · rw [List.getD_eq_getElem _ _ hi, List.getD_eq_getElem _ _ hprev]
    exact List.pairwise_iff_getElem.1 hts.ordered _ _ hprev hi (by omega)
  · rw [List.getD_eq_getElem _ _ hi, List.getD_eq_getElem _ _ hprev]
    exact (hts.sub_le_timeout hclk hprev hi).trans_lt (timeout_lt hcfg _)

/-! ### SETMODE (R74, R75) -/

/-- An empty buffer with the timer disarmed is what a teardown leaves of it. -/
theorem Receiver.disarm_eq_self {r : Receiver} (hindex : r.rxIndex = 0) (hactive : r.frameActive = false) :
    r.disarm = r := by
  rw [Receiver.disarm, ← hindex, ← hactive]

/-- Settles O13: `exec` of the three modes by its definition; in Idle the invariants leave nothing to tear down. -/
theorem setmodeTearsDownAndArms : Obligations.SetmodeTearsDownAndArms := by
  intro s
  constructor
  · intro m mode hmem
    simp only [List.mem_cons, Prod.mk.injEq, List.not_mem_nil, or_false] at hmem
    rcases hmem with ⟨rfl, rfl⟩ | ⟨rfl, rfl⟩ | ⟨rfl, rfl⟩
    all_goals rfl
  · intro hinv hidle
    obtain ⟨hindex, hactive⟩ := hinv.rx_inv.idle_empty hidle
    have hkept : s.rx.disarm.bindMode .idle = s.rx := by
      rw [Receiver.disarm_eq_self hindex hactive, ← hidle, Receiver.bindMode]
    calc exec (.setmode 0) s = .next (s.setReceiveMode .idle) := rfl
      _ = .next { s with cmd := { s.cmd with cmdIllegal := false } } := by
        rw [State.setReceiveMode, hkept]
        rfl

/-! ### The buffer index (R88) -/

/-- Settles O16: of the eleven ways of `State.BlockStep` EDGE's leaves the index or adds one, and only SETMODE's,
IDLE_FIRE's and RESET's take it back. -/
theorem bufferIndexIsResetInThreePlaces : Obligations.BufferIndexIsResetInThreePlaces := by
  intro s t hstep
  cases step_blockStep hstep with
  | edge x =>
    rcases s.rx.edge_cases s.cfg x with ⟨-, -, -, e⟩ | ⟨-, -, -, e⟩ | ⟨-, e⟩
    · exact .inr (.inl (by simp [e]))
    · exact .inr (.inl (by simp [e]))
    · exact .inl (by simp [e])
  | setmode _ _ hsched hhost hdecode _ =>
    exact .inr (.inr ⟨rfl, rfl, .inr (.inr ⟨_, _, _, _, hsched, hhost, hdecode⟩)⟩)
  | delivered _ _ hsched hactive _ | failed _ _ hsched hactive _ =>
    exact .inr (.inr ⟨rfl, rfl, .inr (.inl ⟨_, hsched, hactive⟩)⟩)
  | reset _ hsched => exact .inr (.inr ⟨rfl, rfl, .inl ⟨_, hsched⟩⟩)
  | _ => exact .inl rfl

/-! ### IDLE_FIRE (R80, R84, R85, R89) -/

/-- What IDLE_FIRE leaves of the frame, whatever the decode answers (R80). -/
@[simp] theorem State.takeIdleFire_frame (s : State) :
    s.takeIdleFire.rx.rxMode = s.rx.rxMode ∧ s.takeIdleFire.rx.edgeBuf = s.rx.edgeBuf ∧
    s.takeIdleFire.rx.rxIndex = 0 ∧ s.takeIdleFire.rx.frameActive = false := by
  rcases s.takeIdleFire_cases with ⟨m, -, e⟩ | ⟨err, -, e⟩ <;> simp [e]

/-- Settles O22: an enabled IDLE_FIRE takes `State.takeIdleFire`, whose two cases are the two results. -/
theorem idleFireDecodesTheSnapshot : Obligations.IdleFireDecodesTheSnapshot := by
  intro s rest res hsched hres
  have hdecode : (s.afterEvent rest).rx.decodeFrame (s.afterEvent rest).cfg = res := hres.symm
  refine ⟨Iff.rfl, fun hactive => ?_⟩
  rw [step_idleFire hsched hactive, State.takeIdleFire, hdecode]
  constructor
  · rintro msg rfl
    cases msg <;> rfl
  · rintro e rfl
    cases e <;> rfl

/-- Settles O23: before the fire the frame is active and its deadline bounds the edges; the fire moves the time to
the deadline and leaves an empty buffer, in which the next edge is sample 0. -/
theorem edgeAtTheDeadlineMayGoEitherWay : Obligations.EdgeAtTheDeadlineMayGoEitherWay := by
  intro s hinv hactive
  have hmode : s.rx.rxMode ≠ .idle := fun hidle => by
    simpa [hactive] using (hinv.rx_inv.idle_empty hidle).2
  have hpos : 0 < cap s.rx.rxMode :=
    (hinv.rx_inv.active_iff_index_pos.1 hactive).trans_le hinv.rx_inv.index_le_cap
  have hempty : s.takeIdleFire.rx.rxIndex < cap s.takeIdleFire.rx.rxMode := by simpa using hpos
  have hnext := Receiver.edge_of_room (r := s.takeIdleFire.rx) s.takeIdleFire.cfg s.rx.deadline
    (by simpa using hmode) hempty
  refine ⟨fun t => ?_, hactive, s.takeIdleFire_clkUs, fun t => ?_, fun hroom => ?_, ?_⟩
  · exact (s.rx.edgeEnabled_iff t).trans (by simp [hactive])
  · exact (s.takeIdleFire.rx.edgeEnabled_iff t).trans (by simp)
  · rw [State.takeEdge_rx, Receiver.edge_of_room _ _ hmode hroom]
  · rw [State.takeEdge_rx, hnext]
    simp only [State.takeIdleFire_frame, true_and]
    exact (toList_setIfInBounds_getElem? _ (by decide) _).1

/-! ### The message word (R86) -/

/-- Settles O24: the value of an append is the sum of its fields at their places (`toNat_bitVecAppend`). -/
theorem messageWordLayout : Obligations.MessageWordLayout := by
  intro m a b
  constructor
  all_goals
    simp only [msgWord, HAppend.hAppend, toNat_bitVecAppend, BitVec.toNat_ofNat]
    omega

end Sys2Proof.Machine

end

/-! # Reception of an NEC frame (41_edge_capture.md R78 to R84, 42_nec_decode.md, 44_encoders.md R116, R126, R127)

The `i`-th edge of a train is half the sum of its first `i` durations (`getD_edges`), so a duration that a decoder
reads is half the train's own, rounded either way (`dur_edges_bounds`). NECDecode shifts in one bit per data pair
(`exists_necBits`), and so gives back the message of a train (`necDecode_captured`). A frame of the block is run
edge by edge as `Receiver.hear`; that all its edges are enabled and recorded is `Receiver.CanHear`. -/

section

namespace Sys2Proof.Machine

/-! ### The edges of a train (44 R126) -/

theorem getD_edgesFrom (t : Nat) (p : PulseTrain) {i : Nat} (hi : i ≤ p.length) :
    (t / 2 :: edgesFrom t p).getD i 0 = (t + (p.take i).sum) / 2 := by
  induction p generalizing t i with
  | nil => simp [Nat.le_zero.1 hi]
  | cons d p ih =>
    cases i with
    | zero => simp
    | succ i =>
      rw [edgesFrom_cons, List.getD_cons_succ, ih (t + d) (Nat.le_of_succ_le_succ hi), List.take_succ_cons,
        List.sum_cons, Nat.add_assoc]

theorem getD_edges (p : PulseTrain) {i : Nat} (hi : i ≤ p.length) : (edges p).getD i 0 = (p.take i).sum / 2 := by
  simpa [edges] using getD_edgesFrom 0 p hi

/-- Cutting a train after `n` durations leaves its first `n + 1` edges. -/
theorem take_edges (p : PulseTrain) (n : Nat) : (edges p).take (n + 1) = edges (p.take n) := by
  have hfrom (t : Nat) : (edgesFrom t p).take n = edgesFrom t (p.take n) := by
    induction p generalizing t n with
    | nil => simp
    | cons d p ih => cases n <;> simp [*]
  rw [edges, edges, List.take_succ_cons, hfrom]

theorem edgesFrom_ordered (t : Nat) (p : PulseTrain) : (t / 2 :: edgesFrom t p).Pairwise (· ≤ ·) := by
  induction p generalizing t with
  | nil => simp
  | cons d p ih =>
    have hstep : t / 2 ≤ (t + d) / 2 := by omega
    refine List.pairwise_cons.2 ⟨fun x hx => ?_, ih (t + d)⟩
    rcases List.mem_cons.1 hx with rfl | hx
    · exact hstep
    · exact hstep.trans (List.rel_of_pairwise_cons (ih (t + d)) hx)

/-- The edges of a train do not run backwards. -/
theorem edges_ordered (p : PulseTrain) : (edges p).Pairwise (· ≤ ·) := by
  simpa [edges] using edgesFrom_ordered 0 p

/-- No edge of a train comes after its last duration. -/
theorem le_of_mem_edges {p : PulseTrain} {x : Nat} (hx : x ∈ edges p) : x ≤ p.sum / 2 := by
  obtain ⟨i, hi, rfl⟩ := List.mem_iff_getElem.1 hx
  rw [edges_length] at hi
  rw [← List.getD_eq_getElem _ 0, getD_edges p (by omega)]
  have hsum := List.sum_take_add_sum_drop p i
  omega

/-- A receiver reads each duration of a train as half of it, in µs, rounded down or up (44 R126). -/
theorem dur_edges_bounds {p : PulseTrain} {i d : Nat} (hi : p[i]? = some d) (hd : d < 2 ^ 32) :
    d / 2 ≤ dur (samples (edges p)) (i + 1) ∧ dur (samples (edges p)) (i + 1) ≤ (d + 1) / 2 := by
  obtain ⟨hlt, hget⟩ := List.getElem?_eq_some_iff.1 hi
  have hprev : (edges p).getD i 0 = (p.take i).sum / 2 := getD_edges p hlt.le
  have hnext : (edges p).getD (i + 1) 0 = ((p.take i).sum + d) / 2 := by
    rw [getD_edges p hlt, List.sum_take_succ p i hlt, hget]
  rw [dur_samples (by simpa using hlt)]
  all_goals
    rw [Nat.add_sub_cancel, hprev, hnext]
    omega

/-! ### NECDecode, on the bits of the data pairs (42 R93 to R98) -/

/-- The data pairs shift in their bits, the last one lowest (42 R95, R96). -/
theorem exists_necBits {S : List Timestamp} (m k : Nat) (v : Word)
    (hmarks : ∀ j < m, necMarkOk S (k + j) = true) :
    ∃ u, necBits S m k v = some u ∧
      ∀ i < 32, u.getLsbD i = if i < m then necBit S (k + m - 1 - i) else v.getLsbD (i - m) := by
  induction m generalizing k v with
  | zero => exact ⟨v, rfl, by simp⟩
  | succ m ih =>
    obtain ⟨u, hu, hbits⟩ := ih (k + 1) ((v <<< 1) ||| (BitVec.ofBool (necBit S k)).setWidth 32)
      fun j hj => by simpa [Nat.add_comm, Nat.add_left_comm] using hmarks (j + 1) (by omega)
    refine ⟨u, by rw [necBits, if_pos (by simpa using hmarks 0 (by omega)), hu], fun i hi => ?_⟩
    rw [hbits i hi]
    rcases lt_trichotomy i m with him | rfl | him
    · rw [if_pos him, if_pos (by omega), show k + 1 + m - 1 - i = k + (m + 1) - 1 - i by omega]
    · simp
    · have hshift : i - m ≠ 0 ∧ i - m < 32 := by omega
      rw [if_neg (by omega), if_neg (by omega), Nat.sub_add_eq i m 1]
      simp [hshift, BitVec.getLsbD_shiftLeft, -BitVec.getLsbD_eq_getElem]

/-- The bits of two fields side by side are the bits of the one and then of the other. -/
theorem msbBits_append {m n : Nat} (x : BitVec m) (y : BitVec n) :
    msbBits (x ++ y) = msbBits x ++ msbBits y := by
  refine List.ext_getElem (by simp) fun i hi _ => ?_
  rw [msbBits_length] at hi
  rw [List.getElem_append]
  simp only [msbBits, List.getElem_map, List.getElem_range, List.length_map, List.length_range,
    BitVec.getLsbD_append]
  by_cases him : i < m
  · rw [dif_pos him, if_neg (by omega), show m + n - 1 - i - n = m - 1 - i by omega]
  · rw [dif_neg him, if_pos (by omega), show m + n - 1 - i = n - 1 - (i - m) by omega]

/-- The 32 bits of a frame: a byte, its complement, a byte and its complement (42 R96, R97, 44 R116). -/
def necWord (d c : Byte) : Word := d ++ (d ^^^ 0xFF#8) ++ c ++ (c ^^^ 0xFF#8)

theorem msbBits_necWord (d c : Byte) :
    msbBits (necWord d c) =
      msbBits d ++ msbBits (d ^^^ 0xFF#8) ++ msbBits c ++ msbBits (c ^^^ 0xFF#8) := by
  calc msbBits (necWord d c) = msbBits (d ++ (d ^^^ 0xFF#8) ++ c) ++ msbBits (c ^^^ 0xFF#8) := msbBits_append _ _
    _ = _ := by rw [msbBits_append, msbBits_append]

theorem necMessage_necWord (d c : Byte) : necMessage (necWord d c) = .ok (.nec d c) := by
  have hfields : (necWord d c).extractLsb' 24 8 = d ∧ (necWord d c).extractLsb' 16 8 = d ^^^ 0xFF#8 ∧
      (necWord d c).extractLsb' 8 8 = c ∧ (necWord d c).extractLsb' 0 8 = c ^^^ 0xFF#8 := by
    simp (disch := decide) only [necWord, HAppend.hAppend, extractLsb'_bitVecAppend_low,
      extractLsb'_bitVecAppend_high]
    simp
  obtain ⟨hd, hd', hc, hc'⟩ := hfields
  simp [necMessage, hd, hd', hc, hc']

theorem necDecode_eq_ok {S : List Timestamp} {d c : Byte} (hlength : 67 ≤ S.length)
    (hleader : necLeaderOk S = true) (hmarks : ∀ k < 32, necMarkOk S k = true)
    (hbits : ∀ k < 32, necBit S k = (necWord d c).getLsbD (31 - k)) : necDecode S = .ok (.nec d c) := by
  obtain ⟨u, hu, hget⟩ := exists_necBits (S := S) 32 0 0 (by simpa using hmarks)
  have hword : u = necWord d c := by
    refine BitVec.eq_of_getLsbD_eq fun i hi => ?_
    rw [hget i hi, if_pos hi, hbits _ (by omega)]
    congr 1
    omega
  have hpairs : ¬ necPairCount S.length < 32 := by unfold necPairCount; omega
  rw [necDecode, if_neg (by omega), hleader, if_neg (by simp), if_neg hpairs, hu]
  exact hword ▸ necMessage_necWord d c

/-! ### The train of an NEC message (44 R116, R117, R127) -/

/-- What the capture unit hears of a train: all durations but the trailing mark. -/
def necHeard (w : Word) : PulseTrain := 18000 :: 9000 :: (msbBits w).flatMap necBitTrain

theorem necEncode_eq (d c : Byte) : necEncode d c = necHeard (necWord d c) ++ [1125] := by
  simp [necEncode, necByteTrain, necHeard, msbBits_necWord]

@[simp] theorem necBitTrain_length (b : Bool) : (necBitTrain b).length = 2 := rfl

@[simp] theorem necHeard_length (w : Word) : (necHeard w).length = 66 := by
  simp [necHeard, List.length_flatMap]

/-- The capture unit stores every edge up to the beginning of the trailing mark (44 R127). -/
theorem captured_necEncode (d c : Byte) : captured (necEncode d c) 67 = edges (necHeard (necWord d c)) := by
  have hodd : ¬ (necEncode d c).length % 2 = 0 := by simp [necEncode_eq]
  rw [captured, transitions, if_neg hodd, take_edges, necEncode_eq, List.take_append_of_le_length (by simp),
    List.take_of_length_le (by simp)]

/-- Data pair `k` is bit `k`'s mark and space. -/
theorem getElem?_flatMap_necBitTrain {bs : List Bool} {k : Nat} {b : Bool} (h : bs[k]? = some b) :
    (bs.flatMap necBitTrain)[2 * k]? = some 1125 ∧
    (bs.flatMap necBitTrain)[2 * k + 1]? = some (if b then 3375 else 1125) := by
  induction bs generalizing k with
  | nil => cases h
  | cons x bs ih =>
    cases k with
    | zero =>
      cases h
      simp [necBitTrain]
    | succ k => simpa [necBitTrain, Nat.mul_succ] using ih h

theorem msbBits_complement (b : Byte) : msbBits (b ^^^ 0xFF#8) = (msbBits b).map (!·) := by
  rw [msbBits, msbBits, List.map_map]
  refine List.map_congr_left fun j hj => ?_
  have hlt : 8 - 1 - j < 8 := by omega
  rw [BitVec.getLsbD_xor, show (0xFF#8) = BitVec.allOnes 8 from rfl, BitVec.getLsbD_allOnes, decide_eq_true hlt,
    Bool.xor_true, Function.comp_apply]

/-- A bit and its complement take as long as the two kinds of data pair together. -/
theorem flatMap_necBitTrain_sum (bs : List Bool) :
    (bs.flatMap necBitTrain).sum + ((bs.map (!·)).flatMap necBitTrain).sum = 6750 * bs.length := by
  induction bs with
  | nil => rfl
  | cons b bs ih =>
    simp only [List.flatMap_cons, List.map_cons, List.sum_append, List.length_cons]
    cases b
    all_goals
      simp only [necBitTrain, List.sum_cons, List.sum_nil, Bool.not_true, Bool.not_false, if_true,
        Bool.false_eq_true, if_false]
      omega

/-- Every byte is sent with its complement, so all frames are equally long (44 R117). -/
theorem necHeard_sum (d c : Byte) : (necHeard (necWord d c)).sum = 135000 := by
  have hd := flatMap_necBitTrain_sum (msbBits d)
  have hc := flatMap_necBitTrain_sum (msbBits c)
  simp only [msbBits_length] at hd hc
  simp only [necHeard, msbBits_necWord, msbBits_complement, List.flatMap_append, List.sum_cons, List.sum_append]
  omega

/-- NECDecode gives back the message of a train that was captured cleanly (44 R128 item 1): the leader and each
mark lie in their bands with room to spare, and a space is long exactly for a one bit. -/
theorem necDecode_captured (d c : Byte) : necDecode (samples (captured (necEncode d c) 67)) = .ok (.nec d c) := by
  rw [captured_necEncode]
  generalize hp : necHeard (necWord d c) = p
  have hleaderMark : 9000 ≤ dur (samples (edges p)) 1 ∧ dur (samples (edges p)) 1 ≤ 9000 :=
    dur_edges_bounds (i := 0) (d := 18000) (by rw [← hp]; rfl) (by omega)
  have hleaderSpace : 4500 ≤ dur (samples (edges p)) 2 ∧ dur (samples (edges p)) 2 ≤ 4500 :=
    dur_edges_bounds (i := 1) (d := 9000) (by rw [← hp]; rfl) (by omega)
  have hpair (k : Nat) (hk : k < 32) : p[2 * k + 2]? = some 1125 ∧
      p[2 * k + 3]? = some (if (necWord d c).getLsbD (31 - k) then 3375 else 1125) := by
    rw [← hp]
    exact getElem?_flatMap_necBitTrain (by simp [msbBits, hk])
  have hmark (k : Nat) (hk : k < 32) := dur_edges_bounds (hpair k hk).1 (by omega)
  have hspace (k : Nat) (hk : k < 32) := dur_edges_bounds (hpair k hk).2 (by split <;> omega)
  apply necDecode_eq_ok
  · simp [samples, ← hp]
  · simp only [necLeaderOk, Bool.and_eq_true, decide_eq_true_eq]
    omega
  · intro k hk
    have hdur := hmark k hk
    rw [show 2 * k + 2 + 1 = 3 + 2 * k by omega] at hdur
    simp only [necMarkOk, Bool.and_eq_true, decide_eq_true_eq]
    omega
  · intro k hk
    have hdur := hspace k hk
    rw [show 2 * k + 3 + 1 = 4 + 2 * k by omega] at hdur
    rw [necBit]
    cases hbit : (necWord d c).getLsbD (31 - k)
    all_goals
      simp only [hbit, if_true, Bool.false_eq_true, if_false] at hdur
      simp only [decide_eq_true_eq, decide_eq_false_iff_not]
      omega

/-- The same at any time: a shift of all edges is a shift of all samples (42 R90). -/
theorem necDecode_captured_from (d c : Byte) (t0 : Nat) :
    necDecode (samples ((captured (necEncode d c) 67).map (t0 + ·))) = .ok (.nec d c) := by
  have hshift (ts : List Nat) : samples (ts.map (t0 + ·)) = (samples ts).map (· + sample t0) := by
    simp [samples, sample, BitVec.ofNat_add, BitVec.add_comm]
  rw [hshift, (sameDurations_shift _ _).necDecode_eq, necDecode_captured]

/-! ### A frame edge by edge (41 R78) -/

/-- The receive side after the edges at the times `ts`. -/
def Receiver.hear (cfg : Config) : List Nat → Receiver → Receiver
  | [], r => r
  | t :: ts, r => Receiver.hear cfg ts (r.edge cfg t)

/-- What a frame's edges leave of the receive side: the mode, the registers and the counters. -/
theorem Receiver.hear_frame (cfg : Config) (ts : List Nat) (r : Receiver) :
    (r.hear cfg ts).rxMode = r.rxMode ∧ (r.hear cfg ts).rxResult = r.rxResult ∧
    (r.hear cfg ts).rxMsg = r.rxMsg ∧ (r.hear cfg ts).rxMsgCount = r.rxMsgCount ∧
    (r.hear cfg ts).rxFailCount = r.rxFailCount := by
  induction ts generalizing r with
  | nil => simp [Receiver.hear]
  | cons t ts ih => simpa [Receiver.hear] using ih (r.edge cfg t)

/-- The frame in progress holds edges at the times `us`, and edges at the times `ts` can follow in it: there is
room for them and they come in order and in time. -/
structure Receiver.CanHear (cfg : Config) (r : Receiver) (us ts : List Nat) : Prop where
  times : r.FrameTimes cfg us
  frame : r.FrameInv
  armed : r.rxMode ≠ .idle
  room : us.length + ts.length ≤ cap r.rxMode
  ordered : (r.clkUs :: ts).Pairwise (· ≤ ·)
  in_time : ∀ x ∈ (us ++ ts).head?, ∀ t ∈ ts, t ≤ x + timeout cfg r.rxMode

section

variable {cfg : Config} {r : Receiver} {us ts : List Nat} {t : Nat}

theorem Receiver.CanHear.enabled (h : r.CanHear cfg us (t :: ts)) : r.edgeEnabled t = true := by
  refine (r.edgeEnabled_iff t).2 ⟨List.rel_of_pairwise_cons h.ordered List.mem_cons_self, ?_⟩
  cases us with
  | nil =>
    have hindex : r.rxIndex = 0 := h.times.length_eq.symm
    exact .inl (by simpa [hindex] using h.frame.active_iff_index_pos)
  | cons x us =>
    rw [h.times.deadline_eq x rfl]
    exact .inr (h.in_time x rfl t List.mem_cons_self)

theorem Receiver.CanHear.edge (h : r.CanHear cfg us (t :: ts)) : (r.edge cfg t).CanHear cfg (us ++ [t]) ts := by
  have hmode : (r.edge cfg t).rxMode = r.rxMode := (r.edge_frame cfg t).1
  have hroom := h.room
  have hindex : r.rxIndex < cap r.rxMode := by
    rw [List.length_cons, h.times.length_eq] at hroom
    omega
  have htimes : (r.edge cfg t).FrameTimes cfg (us ++ [t]) :=
    h.times.edge_of_room (List.rel_of_pairwise_cons h.ordered List.mem_cons_self) h.armed hindex
  refine ⟨htimes, h.frame.edge h.enabled, hmode ▸ h.armed, ?_, ?_, fun x hx y hy => ?_⟩
  · simpa [hmode, Nat.add_comm, Nat.add_left_comm] using hroom
  · simpa using h.ordered.tail
  · rw [hmode]
    exact h.in_time x (by simpa using hx) y (List.mem_cons_of_mem t hy)

/-- All the edges that can follow join the frame. -/
theorem Receiver.CanHear.hear (h : r.CanHear cfg us ts) : (r.hear cfg ts).CanHear cfg (us ++ ts) [] := by
  induction ts generalizing r us with
  | nil => simpa [Receiver.hear] using h
  | cons t ts ih => simpa [Receiver.hear] using ih h.edge

end

theorem runSteps_succ_of_step {s t : State} (h : step s = .next t) (n : Nat) :
    runSteps (n + 1) s = runSteps n t := by
  rw [runSteps, h]

/-- A schedule of edges that can follow in the frame writes the receive side only. -/
theorem runSteps_hear {s : State} {us ts : List Nat} {rest : List Event} (h : s.rx.CanHear s.cfg us ts)
    (hsched : s.env.sched = ts.map .edge ++ rest) (n : Nat) :
    runSteps (n + ts.length) s =
      runSteps n { s.afterEvent rest with rx := s.rx.hear s.cfg ts } := by
  induction ts generalizing s us with
  | nil =>
    have hrest : s.env.sched = rest := hsched
    have hkept : { s.afterEvent rest with rx := s.rx.hear s.cfg [] } = s := by
      rw [State.afterEvent, ← hrest]
      rfl
    rw [hkept, List.length_nil, Nat.add_zero]
  | cons t ts ih =>
    rw [List.length_cons, ← Nat.add_assoc, runSteps_succ_of_step (step_edge hsched h.enabled), ih h.edge rfl]
    rfl

/-! ### A whole NEC frame (44 R127, 70 R171) -/

/-- The edges of an NEC train from `t0` on can follow in an empty buffer, if the timeout exceeds the 67500 µs
that a frame lasts. -/
theorem Receiver.canHear_nec {cfg : Config} {r : Receiver} {d c : Byte} {t0 : Nat} (hmode : r.rxMode = .nec)
    (hindex : r.rxIndex = 0) (hactive : r.frameActive = false) (hclk : r.clkUs ≤ t0)
    (htimeout : 67500 ≤ cfg.necIdleTimeoutUs) :
    r.CanHear cfg [] ((captured (necEncode d c) 67).map (t0 + ·)) := by
  rw [captured_necEncode]
  refine ⟨Receiver.frameTimes_nil hindex, Receiver.frameInv_of_empty hindex hactive, by simp [hmode], ?_, ?_, ?_⟩
  · simp [hmode, cap, necCapacity]
  · refine List.pairwise_cons.2 ⟨fun x hx => ?_, (edges_ordered _).map _ fun _ _ h => Nat.add_le_add_left h t0⟩
    obtain ⟨e, -, rfl⟩ := List.mem_map.1 hx
    omega
  · intro x hx t ht
    obtain ⟨e, he, rfl⟩ := List.mem_map.1 ht
    have hlast : e ≤ 135000 / 2 := necHeard_sum d c ▸ le_of_mem_edges he
    have hx : t0 = x := by simpa [edges] using hx
    rw [hmode, timeout]
    omega

/-- An IDLE_FIRE whose decode succeeds delivers the message (41 R80, R84). -/
theorem step_idleFire_of_ok {s : State} {rest : List Event} {msg : Message}
    (hsched : s.env.sched = .idleFire :: rest) (hactive : s.rx.frameActive = true)
    (hdecode : s.rx.decodeFrame s.cfg = .ok msg) :
    step s = .next (State.deliver msg
      { s.afterEvent rest with rx := (s.rx.atTime s.rx.deadline).disarm }) := by
  have hdecode' : (s.afterEvent rest).rx.decodeFrame (s.afterEvent rest).cfg = .ok msg := hdecode
  rw [step_idleFire hsched hactive, State.takeIdleFire, hdecode']
  rfl

/-- Settles O39: the edges join one frame (`Receiver.canHear_nec`), whose snapshot decodes to the message
(`necDecode_captured_from`). -/
theorem necFrameIsReceivedEndToEnd : Obligations.NecFrameIsReceivedEndToEnd := by
  intro s d c t0 rest hmode hindex hactive hclk htimeout hsched
  have hcan : s.rx.CanHear s.cfg [] ((captured (necEncode d c) 67).map (t0 + ·)) :=
    Receiver.canHear_nec hmode hindex hactive hclk htimeout.le
  have hdecode := necDecode_captured_from d c t0
  generalize hts : (captured (necEncode d c) 67).map (t0 + ·) = ts at hcan hdecode
  have hlength : ts.length = 67 := by simp [← hts, captured_necEncode]
  have hfirst : ts.head? = some t0 := by simp [← hts, captured_necEncode, edges]
  have hsched' : s.env.sched = ts.map .edge ++ .idleFire :: rest := by
    rw [hsched, ← hts, List.map_map]
    rfl
  obtain ⟨hmode', -, -, hmsgs, hfails⟩ := s.rx.hear_frame s.cfg ts
  rw [hmode] at hmode'
  obtain ⟨htimes, hframe, -⟩ := hcan.hear
  rw [List.nil_append] at htimes
  have hactive' : (s.rx.hear s.cfg ts).frameActive = true :=
    hframe.active_iff_index_pos.2 (by rw [← htimes.length_eq, hlength]; omega)
  have hdecode' : (s.rx.hear s.cfg ts).decodeFrame s.cfg = .ok (.nec d c) := by
    rw [Receiver.decodeFrame, if_pos hmode', htimes.snapshot_eq, hdecode]
  have hdeadline : (s.rx.hear s.cfg ts).deadline = t0 + s.cfg.necIdleTimeoutUs := by
    rw [htimes.deadline_eq t0 hfirst, hmode', timeout]
  have hrun : runSteps 68 s = .next (State.deliver (.nec d c)
      { s.afterEvent rest with rx := ((s.rx.hear s.cfg ts).atTime (s.rx.hear s.cfg ts).deadline).disarm }) := by
    rw [show 68 = 1 + ts.length by omega, runSteps_hear hcan hsched',
      runSteps_succ_of_step (step_idleFire_of_ok rfl hactive' hdecode')]
    rfl
  exact ⟨_, hrun, rfl, rfl, congrArg (· + 1) hmsgs, hfails, hmode', rfl, rfl, hdeadline, rfl, rfl, rfl, rfl⟩

end Sys2Proof.Machine

end

/-! # What the decoders answer (42_nec_decode.md R90 to R99, 43_rc6_decode.md R113, R114)

Everything NECDecode can answer is said once (`necDecode_cases`): its checks fail one after the other, or the result
is the message of a word whose bits are those of the 32 data pairs. What that word gives is told bit by bit
(`necMessage_eq_ok_iff`, `necMessage_eq_checksumFailure_iff`). -/

section

namespace Sys2Proof.Machine

/-! ### The checks before the message (42 R90 to R95) -/

/-- NECDecode does not stop at the framing checks (42 R91, R92). -/
def NecFramed (S : List Timestamp) : Prop := 3 ≤ S.length ∧ necLeaderOk S = true

/-- All 32 data pairs are there and have good marks (42 R93, R94). -/
def NecPairsOk (S : List Timestamp) : Prop := 67 ≤ S.length ∧ ∀ k < 32, necMarkOk S k = true

section

variable {S : List Timestamp} {k : Nat}

/-- `D(i)` as the arithmetic on sample values modulo 2^32 that the rule writes (42 R90). -/
theorem dur_eq_mod (S : List Timestamp) (i : Nat) :
    dur S i = ((S.getD i 0).toNat + 2 ^ 32 - (S.getD (i - 1) 0).toNat) % 2 ^ 32 := by
  rw [dur, BitVec.toNat_sub, Nat.add_comm, Nat.add_sub_assoc (BitVec.isLt _).le]

theorem necLeaderOk_iff :
    necLeaderOk S = true ↔ 8000 ≤ dur S 1 ∧ dur S 1 < 10000 ∧ 3500 ≤ dur S 2 ∧ dur S 2 < 5500 := by
  simp only [necLeaderOk, Bool.and_eq_true, decide_eq_true_eq, and_assoc]

theorem necMarkOk_iff :
    necMarkOk S k = true ↔ 250 ≤ dur S (3 + 2 * k) ∧ dur S (3 + 2 * k) < 850 := by
  simp only [necMarkOk, Bool.and_eq_true, decide_eq_true_eq]

theorem necBit_eq_true_iff : necBit S k = true ↔ 1100 < dur S (4 + 2 * k) := by
  rw [necBit, decide_eq_true_eq]

/-- Fewer than 32 complete data pairs are fewer than 67 edges (42 R93). -/
theorem necPairCount_lt_iff {n : Nat} : necPairCount n < 32 ↔ n < 67 := by
  unfold necPairCount
  omega

/-- One bad mark among the pairs that are read spoils them all (42 R94). -/
theorem necBits_eq_none {m j : Nat} (hj : j < m) (hmark : necMarkOk S (k + j) = false) (v : Word) :
    necBits S m k v = none := by
  induction m generalizing k j v with
  | zero => omega
  | succ m ih =>
    rw [necBits]
    cases j with
    | zero => rw [if_neg (by simpa using hmark)]
    | succ j =>
      rw [ih (j := j) (by omega) (by rwa [Nat.add_assoc, Nat.add_comm 1]), ite_self]

/-- Everything NECDecode can answer, in the order of its checks; bit `31 - k` of the word is that of pair `k`. -/
theorem necDecode_cases (S : List Timestamp) :
    (¬ NecFramed S ∧ necDecode S = .fail .protocolMismatch) ∨
    (NecFramed S ∧ ¬ NecPairsOk S ∧ necDecode S = .fail .malformedSymbol) ∨
    (NecFramed S ∧ NecPairsOk S ∧
      ∃ v, necDecode S = necMessage v ∧ ∀ k < 32, v.getLsbD (31 - k) = necBit S k) := by
  unfold necDecode
  by_cases h3 : S.length < 3
  · exact .inl ⟨fun h => absurd h.1 (by omega), if_pos h3⟩
  by_cases hleader : necLeaderOk S = false
  · exact .inl ⟨fun h => Bool.false_ne_true (hleader ▸ h.2), by rw [if_neg h3, if_pos hleader]⟩
  have hframed : NecFramed S := ⟨by omega, by simpa using hleader⟩
  refine .inr ?_
  rw [if_neg h3, if_neg hleader]
  by_cases h67 : S.length < 67
  · exact .inl ⟨hframed, fun h => absurd h.1 (by omega), if_pos (necPairCount_lt_iff.2 h67)⟩
  rw [if_neg (mt necPairCount_lt_iff.1 h67)]
  by_cases hmarks : ∀ k < 32, necMarkOk S k = true
  · obtain ⟨v, hv, hbits⟩ := exists_necBits (S := S) 32 0 0 (by simpa using hmarks)
    refine .inr ⟨hframed, ⟨by omega, hmarks⟩, v, by rw [hv], fun k hk => ?_⟩
    rw [hbits _ (by omega), if_pos (by omega), show 0 + 32 - 1 - (31 - k) = k by omega]
  · refine .inl ⟨hframed, fun h => hmarks h.2, ?_⟩
    push Not at hmarks
    obtain ⟨j, hj, hbad⟩ := hmarks
    rw [necBits_eq_none hj (by simpa using hbad)]

end

/-! ### The message of the 32 bits (42 R96 to R98) -/

section

variable {v : Word}

theorem necMessage_cases (v : Word) :
    necMessage v = .fail .checksumFailure ∨ ∃ d c, necMessage v = .ok (.nec d c) := by
  unfold necMessage
  split
  · exact .inl rfl
  · exact .inr ⟨_, _, rfl⟩

/-- The byte field at `i`, bit by bit, MSB-first, by the number of the data pair that each bit came in with; `n` is
the pair that the field begins with (42 R96). -/
theorem extractLsb'_eq_iff_msb {i n : Nat} (hn : i + n = 24) {b : Byte} :
    v.extractLsb' i 8 = b ↔ ∀ k < 8, v.getLsbD (31 - (k + n)) = b.getLsbD (7 - k) := by
  have hfield {j : Nat} (hj : j < 8) : (v.extractLsb' i 8).getLsbD j = v.getLsbD (i + j) := by
    rw [BitVec.getLsbD_extractLsb', decide_eq_true hj, Bool.true_and]
  constructor
  · rintro rfl k hk
    rw [hfield (by omega), show i + (7 - k) = 31 - (k + n) by omega]
  · refine fun h => BitVec.eq_of_getLsbD_eq fun j hj => ?_
    have hbit := h (7 - j) (by omega)
    rwa [show 31 - (7 - j + n) = i + j by omega, show 7 - (7 - j) = j by omega, ← hfield hj] at hbit

theorem getLsbD_complement (b : Byte) {j : Nat} (hj : j < 8) : (b ^^^ 0xFF#8).getLsbD j = !b.getLsbD j := by
  rw [BitVec.getLsbD_xor, show (0xFF#8) = BitVec.allOnes 8 from rfl, BitVec.getLsbD_allOnes, decide_eq_true hj,
    Bool.xor_true]

/-- The byte field at `i` is a byte's complement iff each of its bits inverts the byte's (42 R97). -/
theorem extractLsb'_eq_complement_iff {i n : Nat} (hn : i + n = 24) {b : Byte} :
    v.extractLsb' i 8 = b ^^^ 0xFF#8 ↔ ∀ k < 8, v.getLsbD (31 - (k + n)) = !b.getLsbD (7 - k) := by
  rw [extractLsb'_eq_iff_msb hn]
  exact forall₂_congr fun k _ => by rw [getLsbD_complement b (by omega)]

/-- A check byte fails iff some bit of it equals its data bit (42 R97). -/
theorem extractLsb'_ne_complement_iff {i j m n : Nat} (hm : i + m = 24) (hn : j + n = 24) :
    v.extractLsb' j 8 ≠ v.extractLsb' i 8 ^^^ 0xFF#8 ↔
      ∃ k < 8, v.getLsbD (31 - (k + m)) = v.getLsbD (31 - (k + n)) := by
  have hdata := (extractLsb'_eq_iff_msb hm).1 (rfl : v.extractLsb' i 8 = _)
  rw [ne_eq, extractLsb'_eq_complement_iff hn]
  push Not
  refine exists_congr fun k => and_congr_right fun hk => ?_
  rw [← hdata k hk, ne_eq, Bool.eq_not, not_not, eq_comm]

theorem necMessage_eq_checksumFailure_iff :
    necMessage v = .fail .checksumFailure ↔
      ∃ k < 8, v.getLsbD (31 - k) = v.getLsbD (31 - (k + 8)) ∨
        v.getLsbD (31 - (k + 16)) = v.getLsbD (31 - (k + 24)) := by
  have hfields : necMessage v = .fail .checksumFailure ↔
      v.extractLsb' 16 8 ≠ v.extractLsb' 24 8 ^^^ 0xFF#8 ∨ v.extractLsb' 0 8 ≠ v.extractLsb' 8 8 ^^^ 0xFF#8 := by
    rw [necMessage, ite_eq_left_iff]
    simp [imp_iff_not_or]
  rw [hfields, extractLsb'_ne_complement_iff (m := 0) (n := 8) rfl rfl,
    extractLsb'_ne_complement_iff (m := 16) (n := 24) rfl rfl]
  simp only [and_or_left, exists_or, Nat.add_zero]

theorem necMessage_eq_ok_iff {d c : Byte} :
    necMessage v = .ok (.nec d c) ↔
      ∀ k < 8, v.getLsbD (31 - k) = d.getLsbD (7 - k) ∧ v.getLsbD (31 - (k + 8)) = !d.getLsbD (7 - k) ∧
        v.getLsbD (31 - (k + 16)) = c.getLsbD (7 - k) ∧ v.getLsbD (31 - (k + 24)) = !c.getLsbD (7 - k) := by
  have hfields : necMessage v = .ok (.nec d c) ↔
      v.extractLsb' 24 8 = d ∧ v.extractLsb' 16 8 = d ^^^ 0xFF#8 ∧
      v.extractLsb' 8 8 = c ∧ v.extractLsb' 0 8 = c ^^^ 0xFF#8 := by
    rw [necMessage]
    constructor
    · intro h
      split at h
      · cases h
      · rename_i hchecks
        push Not at hchecks
        cases h
        exact ⟨rfl, hchecks.1, rfl, hchecks.2⟩
    · rintro ⟨rfl, hd, rfl, hc⟩
      rw [if_neg (by simp [hd, hc])]
  rw [hfields, extractLsb'_eq_iff_msb (n := 0) rfl, extractLsb'_eq_complement_iff (n := 8) rfl,
    extractLsb'_eq_iff_msb (n := 16) rfl, extractLsb'_eq_complement_iff (n := 24) rfl]
  simp only [forall_and, Nat.add_zero]

end

/-! ### Which check decides (42 R91 to R98) -/

section

variable {S : List Timestamp}

theorem necDecode_eq_protocolMismatch_iff : necDecode S = .fail .protocolMismatch ↔ ¬ NecFramed S := by
  rcases necDecode_cases S with ⟨hframed, h⟩ | ⟨hframed, -, h⟩ | ⟨hframed, -, v, h, -⟩
  · simp [h, hframed]
  · simp [h, hframed]
  · rcases necMessage_cases v with hv | ⟨d, c, hv⟩ <;> simp [h, hv, hframed]

theorem necDecode_eq_malformedSymbol_iff (hframed : NecFramed S) :
    necDecode S = .fail .malformedSymbol ↔ ¬ NecPairsOk S := by
  rcases necDecode_cases S with ⟨hnot, -⟩ | ⟨-, hpairs, h⟩ | ⟨-, hpairs, v, h, -⟩
  · exact absurd hframed hnot
  · simp [h, hpairs]
  · rcases necMessage_cases v with hv | ⟨d, c, hv⟩ <;> simp [h, hv, hpairs]

theorem exists_necDecode_eq_necMessage (hframed : NecFramed S) (hpairs : NecPairsOk S) :
    ∃ v, necDecode S = necMessage v ∧ ∀ k < 32, v.getLsbD (31 - k) = necBit S k := by
  rcases necDecode_cases S with ⟨hnot, -⟩ | ⟨-, hnot, -⟩ | ⟨-, -, h⟩
  · exact absurd hframed hnot
  · exact absurd hpairs hnot
  · exact h

end

/-- Settles O27: the durations are turned into the decoder's own tests, and each result into the test that it
waits for. -/
theorem necDecodeFirstFailingStepDecides : Obligations.NecDecodeFirstFailingStepDecides := by
  intro S D hD
  obtain rfl : D = dur S := funext fun i => (hD i).trans (dur_eq_mod S i).symm
  simp only [← necLeaderOk_iff, ← necMarkOk_iff, ← necBit_eq_true_iff]
  refine ⟨?mismatch, fun h3 hleader => ⟨?malformed, fun h67 hmarks => ?message⟩⟩
  case mismatch => rw [necDecode_eq_protocolMismatch_iff, NecFramed, not_and_or, not_le]
  case malformed =>
    rw [necDecode_eq_malformedSymbol_iff ⟨h3, hleader⟩, NecPairsOk, not_and_or, not_le]
    simp only [not_forall, exists_prop]
  case message =>
    obtain ⟨v, h, hbits⟩ := exists_necDecode_eq_necMessage ⟨h3, hleader⟩ ⟨h67, hmarks⟩
    have hpairs {k : Nat} (hk : k < 8) : v.getLsbD (31 - k) = necBit S k ∧
        v.getLsbD (31 - (k + 8)) = necBit S (k + 8) ∧ v.getLsbD (31 - (k + 16)) = necBit S (k + 16) ∧
        v.getLsbD (31 - (k + 24)) = necBit S (k + 24) :=
      ⟨hbits _ (by omega), hbits _ (by omega), hbits _ (by omega), hbits _ (by omega)⟩
    simp only [h, necMessage_eq_checksumFailure_iff, necMessage_eq_ok_iff, ← Bool.not_eq_true', ← Bool.eq_iff_iff]
    refine ⟨exists_congr fun k => and_congr_right fun hk => ?_, fun d c => forall₂_congr fun k hk => ?_⟩
    all_goals
      obtain ⟨hdata, hcheck, hdata', hcheck'⟩ := hpairs hk
      rw [hdata, hcheck, hdata', hcheck']

/-! ### Nothing is read after edge 66 (42 R99) -/

theorem necBits_append {S : List Timestamp} (X : List Timestamp) (m k : Nat) (v : Word)
    (hk : 2 * (k + m) + 2 < S.length) : necBits (S ++ X) m k v = necBits S m k v := by
  induction m generalizing k v with
  | zero => rfl
  | succ m ih =>
    have hmark : necMarkOk (S ++ X) k = necMarkOk S k := by rw [necMarkOk, dur_append (by omega), necMarkOk]
    have hbit : necBit (S ++ X) k = necBit S k := by rw [necBit, dur_append (by omega), necBit]
    rw [necBits, hmark, hbit, ih _ _ (by omega), necBits]

/-- Settles O28: the leader and the 32 pairs lie in the 67 edges. -/
theorem necDecodeReadsOnly67Edges : Obligations.NecDecodeReadsOnly67Edges := by
  intro S X hS
  have hleader : necLeaderOk (S ++ X) = necLeaderOk S := by
    rw [necLeaderOk, dur_append (by omega), dur_append (by omega), necLeaderOk]
  have hlength : 67 ≤ (S ++ X).length := by simp [hS]
  unfold necDecode
  rw [hleader, necBits_append X 32 0 0 (by omega), if_neg (show ¬ (S ++ X).length < 3 by omega),
    if_neg (show ¬ S.length < 3 by omega), if_neg (mt necPairCount_lt_iff.1 hlength.not_gt),
    if_neg (mt necPairCount_lt_iff.1 hS.ge.not_gt)]

/-! ### The results of each decoder (42 R98, 43 R113, R114) -/

theorem rc6Message_cases (bits : List Bool) :
    rc6Message bits = .fail .unsupportedMode ∨ ∃ c i, rc6Message bits = .ok (.rc6 0 c i) := by
  unfold rc6Message
  split
  · exact .inl rfl
  · exact .inr ⟨_, _, rfl⟩

/-- RC6Decode fails at one of its checks, or the result is the message of the bits it has read. -/
theorem rc6Decode_cases (ties : TieRule) (S : List Timestamp) :
    rc6Decode ties S = .fail .protocolMismatch ∨ rc6Decode ties S = .fail .malformedSymbol ∨
    ∃ bits, rc6Decode ties S = rc6Message bits := by
  unfold rc6Decode
  split
  · exact .inl rfl
  split
  · exact .inl rfl
  split
  · exact .inl rfl
  refine .inr ?_
  cases rc6Bits ties S 20 0 rc6Start with
  | none => exact .inl rfl
  | some c =>
    dsimp only
    cases rc6LastHalf ties S c with
    | none => exact .inl rfl
    | some i =>
      dsimp only
      split
      · exact .inr ⟨_, rfl⟩
      · exact .inl rfl

/-- Settles O32: a decoder's own checks give two failures only, and its message the third or a message of its own
kind. -/
theorem decodersGiveOnlyTheirOwnResults : Obligations.DecodersGiveOnlyTheirOwnResults := by
  intro ties S
  have hnec : (∀ msg, necDecode S = .ok msg → ∃ d c, msg = .nec d c) ∧
      necDecode S ≠ .fail .unsupportedMode := by
    rcases necDecode_cases S with ⟨-, h⟩ | ⟨-, -, h⟩ | ⟨-, -, v, h, -⟩
    · simp [h]
    · simp [h]
    · rcases necMessage_cases v with hv | ⟨d, c, hv⟩ <;> simp [h, hv]
  have hrc6 : (∀ msg, rc6Decode ties S = .ok msg → ∃ c i, msg = .rc6 0 c i) ∧
      rc6Decode ties S ≠ .fail .checksumFailure := by
    rcases rc6Decode_cases ties S with h | h | ⟨bits, h⟩
    · simp [h]
    · simp [h]
    · rcases rc6Message_cases bits with hv | ⟨c, i, hv⟩ <;> simp [h, hv]
  exact and_assoc.1 ⟨hnec, hrc6⟩

end Sys2Proof.Machine

end

/-! # RC6Decode, check by check (43_rc6_decode.md R101 to R114)

What RC6Decode answers on a buffer is settled in the order of its steps. The framing checks are one predicate
(`Rc6Framed`). The cursor of the bit state machine is told by a reading of the buffer (`rc6CursorAt`), so that the
loop over 20 bits succeeds exactly when a reading exists. The last half and the gap are one more predicate
(`Rc6EndOk`), and the message is told bit by bit. -/

section

namespace Sys2Proof.Machine

/-! ### Unit classification (R101) -/

/-- Off the tie, both rules round to the nearest number of units. -/
theorem rdiv_of_ne_tie (ties : TieRule) {d : Nat} (h : d % 444 ≠ 222) : rdiv ties d = (d + 222) / 444 := by
  unfold rdiv rc6UnitUs
  dsimp only
  split_ifs <;> omega

theorem rdiv_up_of_tie {d : Nat} (h : d % 444 = 222) : rdiv .up d = d / 444 + 1 := by
  simp [rdiv, rc6UnitUs, h]

theorem rdiv_even_of_tie {d : Nat} (h : d % 444 = 222) : rdiv .even d = d / 444 + d / 444 % 2 := by
  simp [rdiv, rc6UnitUs, h]

/-- Settles O30: off the tie both rules give one nearest number, and at the tie each rule's value is written out. -/
theorem unitClassificationIsNearest : Obligations.UnitClassificationIsNearest := by
  intro ties d
  by_cases htie : d % 444 = 222
  · have hup := rdiv_up_of_tie htie
    have heven := rdiv_even_of_tie htie
    cases ties <;> omega
  · rw [rdiv_of_ne_tie ties htie, rdiv_of_ne_tie .up htie, rdiv_of_ne_tie .even htie]
    omega

/-! ### The framing checks (R102 to R104) -/

/-- The unit count of the duration at index `i` (R101). -/
abbrev rc6Units (ties : TieRule) (S : List Timestamp) (i : Nat) : Nat := rdiv ties (dur S i)

/-- RC6Decode does not stop at the framing checks (R102, R103, R104). -/
def Rc6Framed (ties : TieRule) (S : List Timestamp) : Prop :=
  4 ≤ S.length ∧ (2220 < dur S 1 ∧ dur S 1 < 3108 ∧ 444 < dur S 2 ∧ dur S 2 < 1332) ∧ rc6Units ties S 3 = 1

theorem rc6LeaderOk_iff {S : List Timestamp} :
    rc6LeaderOk S = true ↔ 2220 < dur S 1 ∧ dur S 1 < 3108 ∧ 444 < dur S 2 ∧ dur S 2 < 1332 := by
  simp only [rc6LeaderOk, Bool.and_eq_true, decide_eq_true_eq, and_assoc]
  rfl

section

variable {ties : TieRule} {S : List Timestamp}

theorem rc6Decode_of_not_framed (h : ¬ Rc6Framed ties S) : rc6Decode ties S = .fail .protocolMismatch := by
  unfold rc6Decode
  split_ifs with hlength hleader hstart
  · rfl
  · rfl
  · rfl
  · rw [Bool.not_eq_false, rc6LeaderOk_iff] at hleader
    exact absurd ⟨not_lt.1 hlength, hleader, not_not.1 hstart⟩ h

/-! ### After the 20 bits (R110, R111) -/

/-- Where the trailing gap is looked for after cursor `c`: behind the last half, if one is left (R110, R111). -/
def rc6GapIndex (S : List Timestamp) (c : Rc6Cursor) : Nat :=
  if c.level = false ∧ c.next < S.length then c.next + 1 else c.next

/-- The durations after cursor `c` are a good end of the frame: the last half, if one is left, is 1 unit (R110), and
the gap is a good one (R111). -/
def Rc6EndOk (ties : TieRule) (S : List Timestamp) (c : Rc6Cursor) : Prop :=
  (c.level = false → c.next < S.length → rc6Units ties S c.next = 1) ∧ rc6GapOk ties S (rc6GapIndex S c) = true

theorem rc6LastHalf_eq_some {c : Rc6Cursor}
    (h : c.level = false → c.next < S.length → rc6Units ties S c.next = 1) :
    rc6LastHalf ties S c = some (rc6GapIndex S c) := by
  unfold rc6LastHalf rc6GapIndex
  split_ifs with hleft hunit
  · rfl
  · exact absurd (h hleft.1 hleft.2) hunit
  · rfl

theorem rc6LastHalf_eq_none {c : Rc6Cursor} (hlevel : c.level = false) (hleft : c.next < S.length)
    (hunit : rc6Units ties S c.next ≠ 1) : rc6LastHalf ties S c = none := by
  rw [rc6LastHalf, if_pos ⟨hlevel, hleft⟩, if_neg hunit]

theorem rc6GapOk_iff {i : Nat} :
    rc6GapOk ties S i = true ↔
      (i < S.length → rc6Units ties S i = 0 ∨ rc6Units ties S i = 6 ∨ rc6Units ties S i = 7) := by
  by_cases hi : i < S.length <;> simp [rc6GapOk, hi, or_assoc]

theorem not_rc6EndOk_iff {c : Rc6Cursor} :
    ¬ Rc6EndOk ties S c ↔
      (c.level = false ∧ c.next < S.length ∧ rc6Units ties S c.next ≠ 1) ∨
      (rc6GapIndex S c < S.length ∧ rc6Units ties S (rc6GapIndex S c) ≠ 0 ∧
        rc6Units ties S (rc6GapIndex S c) ≠ 6 ∧ rc6Units ties S (rc6GapIndex S c) ≠ 7) := by
  rw [Rc6EndOk, not_and_or, rc6GapOk_iff]
  push Not
  rfl

/-! ### The steps after the framing checks, in order -/

/-- Everything RC6Decode can answer after the framing checks, in the order of its steps. -/
theorem rc6Decode_cases_of_framed (hframed : Rc6Framed ties S) :
    (rc6Bits ties S 20 0 rc6Start = none ∧ rc6Decode ties S = .fail .malformedSymbol) ∨
    ∃ c, rc6Bits ties S 20 0 rc6Start = some c ∧
      ((¬ Rc6EndOk ties S c ∧ rc6Decode ties S = .fail .malformedSymbol) ∨
        (Rc6EndOk ties S c ∧ rc6Decode ties S = rc6Message c.bits)) := by
  obtain ⟨hlength, hleader, hstart⟩ := hframed
  rw [rc6Decode, if_neg hlength.not_gt, if_neg (by simp [rc6LeaderOk_iff.2 hleader]), if_neg (not_not.2 hstart)]
  cases rc6Bits ties S 20 0 rc6Start with
  | none => exact .inl ⟨rfl, rfl⟩
  | some c =>
    refine .inr ⟨c, rfl, ?_⟩
    dsimp only
    by_cases hlast : c.level = false → c.next < S.length → rc6Units ties S c.next = 1
    · rw [rc6LastHalf_eq_some hlast]
      by_cases hgap : rc6GapOk ties S (rc6GapIndex S c) = true
      · exact .inr ⟨⟨hlast, hgap⟩, if_pos hgap⟩
      · exact .inl ⟨fun hend => hgap hend.2, if_neg hgap⟩
    · refine .inl ⟨fun hend => hlast hend.1, ?_⟩
      push Not at hlast
      obtain ⟨hlevel, hleft, hunit⟩ := hlast
      rw [rc6LastHalf_eq_none hlevel hleft hunit]

theorem rc6Message_ne_fail {bits : List Bool} {e : DecodeFailure} (he : e ≠ .unsupportedMode) :
    rc6Message bits ≠ .fail e := by
  rcases rc6Message_cases bits with h | ⟨_, _, h⟩ <;> simp [h, he.symm]

theorem rc6Decode_eq_protocolMismatch_iff :
    rc6Decode ties S = .fail .protocolMismatch ↔ ¬ Rc6Framed ties S := by
  refine ⟨fun h hframed => ?_, rc6Decode_of_not_framed⟩
  rcases rc6Decode_cases_of_framed hframed with ⟨-, hfail⟩ | ⟨c, -, ⟨-, hfail⟩ | ⟨-, hmessage⟩⟩
  · simp [hfail] at h
  · simp [hfail] at h
  · exact rc6Message_ne_fail (by simp) (hmessage.symm.trans h)

end

/-- Settles O31: the checks are the negation of `Rc6Framed`, and no later step gives the same failure. -/
theorem rc6FramingChecksExactly : Obligations.Rc6FramingChecksExactly := fun ties S => by
  rw [rc6Decode_eq_protocolMismatch_iff, Rc6Framed, not_and_or, not_and_or, not_le]

/-! ### The bit state machine along a reading (R105 to R109) -/

@[simp] theorem rc6Before_succ (b : Nat → Bool) (k : Nat) : rc6Before b (k + 1) = b k := by simp [rc6Before]

@[simp] theorem rc6WidthBefore_succ (k : Nat) : rc6WidthBefore (k + 1) = rc6Width k := by simp [rc6WidthBefore]

/-- What a reading says of position `k` alone: the clauses of `Rc6Reading` for one bit. -/
structure Rc6BitRead (U : Nat → Nat) (n : Nat) (b : Nat → Bool) (p : Nat → Nat) (k : Nat) : Prop where
  next : p (k + 1) = p k + if b k = rc6Before b k then 2 else 1
  inside : p (k + 1) ≤ n
  merged : b k ≠ rc6Before b k → U (p k) = rc6WidthBefore k + rc6Width k
  apart : b k = rc6Before b k → U (p k) = rc6WidthBefore k ∧ U (p k + 1) = rc6Width k

theorem rc6Reading_iff {U : Nat → Nat} {n : Nat} {b : Nat → Bool} {p : Nat → Nat} :
    Rc6Reading U n b p ↔ p 0 = 4 ∧ ∀ k < 20, Rc6BitRead U n b p k := by
  constructor
  · intro h
    exact ⟨h.start, fun k hk => ⟨h.next k hk, h.inside k hk, h.merged k hk, h.apart k hk⟩⟩
  · rintro ⟨hstart, hread⟩
    exact ⟨hstart, fun k hk => (hread k hk).next, fun k hk => (hread k hk).inside,
      fun k hk => (hread k hk).merged, fun k hk => (hread k hk).apart⟩

/-- The state machine's variables before bit `k` of a reading. -/
def rc6CursorAt (b : Nat → Bool) (p : Nat → Nat) (k : Nat) : Rc6Cursor where
  level := rc6Before b k
  prevWidth := rc6WidthBefore k
  next := p k
  bits := (List.range k).map b

theorem rc6CursorAt_zero {b : Nat → Bool} {p : Nat → Nat} (h : p 0 = 4) : rc6CursorAt b p 0 = rc6Start := by
  simp [rc6CursorAt, rc6Start, rc6Before, rc6WidthBefore, h]

/-- Bit `k` of a reading moves the cursor as `rc6Bit_eq_some_iff` says. -/
theorem rc6CursorAt_succ {b : Nat → Bool} {p : Nat → Nat} {k : Nat}
    (h : p (k + 1) = p k + if b k = rc6Before b k then 2 else 1) :
    rc6CursorAt b p (k + 1) =
      { level := b k
        prevWidth := rc6Width k
        next := (rc6CursorAt b p k).next + if b k = (rc6CursorAt b p k).level then 2 else 1
        bits := (rc6CursorAt b p k).bits ++ [b k] } := by
  rw [rc6CursorAt, rc6Before_succ, rc6WidthBefore_succ, h, List.range_succ, List.map_append]
  rfl

/-- The durations at which the bits `b` begin (R107). -/
def rc6Begins (b : Nat → Bool) : Nat → Nat
  | 0 => 4
  | k + 1 => rc6Begins b k + if b k = rc6Before b k then 2 else 1

section

variable {ties : TieRule} {S : List Timestamp} {b : Nat → Bool} {p : Nat → Nat} {k m : Nat}

/-- One bit moves the cursor along a reading iff its durations are what the reading says. -/
theorem rc6Bit_cursorAt_iff :
    rc6Bit ties S (rc6Width k) (rc6CursorAt b p k) = some (rc6CursorAt b p (k + 1)) ↔
      Rc6BitRead (rc6Units ties S) S.length b p k := by
  rw [rc6Bit_eq_some_iff (rc6Width_pos k)]
  constructor
  · rintro ⟨bit, hcursor, hinside, hmerged, hapart⟩
    obtain rfl : b k = bit := by simpa [rc6CursorAt] using congrArg Rc6Cursor.level hcursor
    exact ⟨congrArg Rc6Cursor.next hcursor, hinside, hmerged, hapart⟩
  · rintro ⟨hnext, hinside, hmerged, hapart⟩
    exact ⟨b k, rc6CursorAt_succ hnext, hinside, hmerged, hapart⟩

theorem rc6Bits_of_bitRead
    (h : ∀ j, k ≤ j → j < k + m → Rc6BitRead (rc6Units ties S) S.length b p j) :
    rc6Bits ties S m k (rc6CursorAt b p k) = some (rc6CursorAt b p (k + m)) := by
  induction m generalizing k with
  | zero => rfl
  | succ m ih =>
    rw [rc6Bits, rc6Bit_cursorAt_iff.2 (h k le_rfl (by omega)), Option.bind_some,
      ih fun j hkj hj => h j (by omega) (by omega), Nat.add_right_comm, Nat.add_assoc]

/-- Reading `m` bits appends `m` bits to the stream. -/
theorem exists_bits_append {c d : Rc6Cursor} (h : rc6Bits ties S m k c = some d) :
    ∃ bs, bs.length = m ∧ d.bits = c.bits ++ bs := by
  induction m generalizing k c with
  | zero =>
    obtain rfl : c = d := Option.some.inj h
    exact ⟨[], rfl, by simp⟩
  | succ m ih =>
    obtain ⟨c', hbit, hrest⟩ := Option.bind_eq_some_iff.1 h
    obtain ⟨bit, rfl, -⟩ := (rc6Bit_eq_some_iff (rc6Width_pos k)).1 hbit
    obtain ⟨bs, hlength, hbits⟩ := ih hrest
    exact ⟨bit :: bs, by simp [hlength], by simp [hbits]⟩

/-- If the state machine reads bits from position `k` on, the stream that it ends with is a reading of them. -/
theorem bitRead_of_rc6Bits {c : Rc6Cursor}
    (h : rc6Bits ties S m k (rc6CursorAt b (rc6Begins b) k) = some c)
    (hstream : ∀ j < k + m, c.bits[j]? = some (b j)) {j : Nat} (hkj : k ≤ j) (hj : j < k + m) :
    Rc6BitRead (rc6Units ties S) S.length b (rc6Begins b) j := by
  induction m generalizing k with
  | zero => omega
  | succ m ih =>
    obtain ⟨d, hbit, hrest⟩ := Option.bind_eq_some_iff.1 h
    have hd : d = rc6CursorAt b (rc6Begins b) (k + 1) := by
      obtain ⟨bit, rfl, -⟩ := (rc6Bit_eq_some_iff (rc6Width_pos k)).1 hbit
      obtain ⟨bs, -, hbits⟩ := exists_bits_append hrest
      obtain rfl : bit = b k := by simpa [hbits, rc6CursorAt] using hstream k (by omega)
      exact (rc6CursorAt_succ rfl).symm
    subst hd
    rcases hkj.eq_or_lt with rfl | hlt
    · exact rc6Bit_cursorAt_iff.1 hbit
    · exact ih hrest (fun i hi => hstream i (by omega)) hlt (by omega)

/-- A reading of the 20 bits is where the state machine ends. -/
theorem rc6Bits_of_reading (h : Rc6Reading (rc6Units ties S) S.length b p) :
    rc6Bits ties S 20 0 rc6Start = some (rc6CursorAt b p 20) := by
  obtain ⟨hstart, hread⟩ := rc6Reading_iff.1 h
  rw [← rc6CursorAt_zero hstart, rc6Bits_of_bitRead fun j _ hj => hread j (by omega)]

/-- Without a reading of the 20 bits the state machine fails. -/
theorem rc6Bits_eq_none (h : ∀ b p, ¬ Rc6Reading (rc6Units ties S) S.length b p) :
    rc6Bits ties S 20 0 rc6Start = none := by
  refine Option.eq_none_iff_forall_ne_some.2 fun c hbits => ?_
  obtain ⟨bs, hlength, hstream⟩ := exists_bits_append hbits
  have hread : Rc6Reading (rc6Units ties S) S.length (c.bits.getD · false) (rc6Begins (c.bits.getD · false)) := by
    refine rc6Reading_iff.2 ⟨rfl, fun k hk => bitRead_of_rc6Bits (m := 20) (c := c) ?_ ?_ k.zero_le (by omega)⟩
    · rwa [rc6CursorAt_zero rfl]
    · intro j hj
      have hj' : j < c.bits.length := by simpa [hstream, rc6Start, hlength] using hj
      rw [List.getElem?_eq_getElem hj', List.getD_eq_getElem _ _ hj']
  exact h _ _ hread

theorem rc6Decode_of_unreadable (hframed : Rc6Framed ties S)
    (h : ∀ b p, ¬ Rc6Reading (rc6Units ties S) S.length b p) : rc6Decode ties S = .fail .malformedSymbol := by
  rcases rc6Decode_cases_of_framed hframed with ⟨-, hfail⟩ | ⟨c, hbits, -⟩
  · exact hfail
  · cases (rc6Bits_eq_none h).symm.trans hbits

/-- On a buffer that is read as the bits `b`, the end of the frame decides between a failure and their message. -/
theorem rc6Decode_of_reading (hframed : Rc6Framed ties S) (hread : Rc6Reading (rc6Units ties S) S.length b p) :
    (¬ Rc6EndOk ties S (rc6CursorAt b p 20) ∧ rc6Decode ties S = .fail .malformedSymbol) ∨
    (Rc6EndOk ties S (rc6CursorAt b p 20) ∧ rc6Decode ties S = rc6Message ((List.range 20).map b)) := by
  rcases rc6Decode_cases_of_framed hframed with ⟨hbits, -⟩ | ⟨c, hbits, hend⟩
  · cases hbits.symm.trans (rc6Bits_of_reading hread)
  · cases hbits.symm.trans (rc6Bits_of_reading hread)
    exact hend

end

/-! ### The message of the 20 bits (R112 to R114) -/

section

variable {f b : Nat → Bool} {n : Nat}

theorem msbValue_range_succ (f : Nat → Bool) (n : Nat) :
    msbValue ((List.range (n + 1)).map f) = 2 * msbValue ((List.range n).map f) + (f n).toNat := by
  simp [msbValue, List.range_succ]

theorem msbValue_range_eq_zero_iff : msbValue ((List.range n).map f) = 0 ↔ ∀ j < n, f j = false := by
  induction n with
  | zero => simp [msbValue]
  | succ n ih =>
    rw [msbValue_range_succ, Nat.add_eq_zero_iff, mul_eq_zero_iff_left two_ne_zero, ih, Nat.forall_lt_succ_right,
      Bool.toNat_eq_zero]

theorem testBit_msbValue_range {j : Nat} (hj : j < n) :
    (msbValue ((List.range n).map f)).testBit (n - 1 - j) = f j := by
  induction n with
  | zero => omega
  | succ n ih =>
    rw [msbValue_range_succ]
    rcases (Nat.le_of_lt_succ hj).eq_or_lt with rfl | hlt
    · cases hbit : f j <;> simp [Nat.testBit_zero, Nat.add_mod]
    · have hhalf : (2 * msbValue ((List.range n).map f) + (f n).toNat) / 2 = msbValue ((List.range n).map f) := by
        have := (f n).toNat_lt
        omega
      rw [show n + 1 - 1 - j = n - 1 - j + 1 by omega, Nat.testBit_succ, hhalf, ih hlt]

theorem ofNat_msbValue_eq_iff {v : BitVec n} :
    BitVec.ofNat n (msbValue ((List.range n).map f)) = v ↔ ∀ j < n, v.getLsbD (n - 1 - j) = f j := by
  have hbit {j : Nat} (hj : j < n) :
      (BitVec.ofNat n (msbValue ((List.range n).map f))).getLsbD (n - 1 - j) = f j := by
    rw [BitVec.getLsbD_ofNat, decide_eq_true (show n - 1 - j < n by omega), Bool.true_and,
      testBit_msbValue_range hj]
  constructor
  · rintro rfl j hj
    exact hbit hj
  · refine fun h => BitVec.eq_of_getLsbD_eq fun i hi => ?_
    have hj : n - 1 - i < n := by omega
    rw [← show n - 1 - (n - 1 - i) = i by omega, hbit hj, h _ hj]

/-- A field of the stream is the number of its own bits, MSB-first (R112). -/
theorem rc6Field_range {start len : Nat} (h : start + len ≤ n) :
    rc6Field ((List.range n).map b) start len = msbValue ((List.range len).map fun j => b (start + j)) := by
  refine congrArg msbValue (List.ext_getElem (by simp; omega) fun j _ _ => ?_)
  simp

theorem rc6Field_mode_eq_zero_iff :
    rc6Field ((List.range 20).map b) 0 3 = 0 ↔ b 0 = false ∧ b 1 = false ∧ b 2 = false := by
  rw [rc6Field_range (by omega), msbValue_range_eq_zero_iff]
  constructor
  · intro h
    exact ⟨h 0 (by omega), h 1 (by omega), h 2 (by omega)⟩
  · rintro ⟨h0, h1, h2⟩ j hj
    interval_cases j <;> assumption

theorem ofNat_rc6Field_eq_iff {start : Nat} (h : start + 8 ≤ 20) {v : Byte} :
    BitVec.ofNat 8 (rc6Field ((List.range 20).map b) start 8) = v ↔
      ∀ j < 8, v.getLsbD (7 - j) = b (start + j) := by
  rw [rc6Field_range h, ofNat_msbValue_eq_iff]

theorem rc6Message_eq_unsupportedMode_iff :
    rc6Message ((List.range 20).map b) = .fail .unsupportedMode ↔ b 0 = true ∨ b 1 = true ∨ b 2 = true := by
  calc rc6Message ((List.range 20).map b) = .fail .unsupportedMode
      ↔ ¬ rc6Field ((List.range 20).map b) 0 3 = 0 := by rw [rc6Message, ite_eq_left_iff]; simp
    _ ↔ b 0 = true ∨ b 1 = true ∨ b 2 = true := by
      rw [rc6Field_mode_eq_zero_iff]; simp only [not_and_or, Bool.not_eq_false]

theorem rc6Message_eq_ok_iff {c i : Byte} :
    rc6Message ((List.range 20).map b) = .ok (.rc6 0 c i) ↔
      (b 0 = false ∧ b 1 = false ∧ b 2 = false) ∧
      ∀ j < 8, c.getLsbD (7 - j) = b (4 + j) ∧ i.getLsbD (7 - j) = b (12 + j) := by
  simp only [forall_and, ← rc6Field_mode_eq_zero_iff, ← ofNat_rc6Field_eq_iff (show 4 + 8 ≤ 20 by omega),
    ← ofNat_rc6Field_eq_iff (show 12 + 8 ≤ 20 by omega)]
  rw [rc6Message]
  split_ifs with hmode
  · simp [hmode]
  · simp [not_not.1 hmode]

end

/-- Settles O60: a reading is where the bit loop ends, its end decides MalformedSymbol, and a good end leaves the
message of the bits read. -/
theorem rc6DecodeFirstFailingStepDecides : Obligations.Rc6DecodeFirstFailingStepDecides := by
  intro ties S U hU hlength hleader hstart
  obtain rfl : U = rc6Units ties S := funext fun i => (hU i).trans (congrArg (rdiv ties) (dur_eq_mod S i).symm)
  have hframed : Rc6Framed ties S := ⟨hlength, hleader, hstart⟩
  refine ⟨rc6Decode_of_unreadable hframed, fun b p e hread he => ?_⟩
  obtain rfl : e = rc6GapIndex S (rc6CursorAt b p 20) := he
  refine ⟨?malformed, fun hlast hgap => ?message⟩
  case malformed =>
    refine Iff.trans ?_ (not_rc6EndOk_iff (c := rc6CursorAt b p 20))
    rcases rc6Decode_of_reading hframed hread with ⟨hend, h⟩ | ⟨hend, h⟩
    · simp [h, hend]
    · simp [h, hend, rc6Message_ne_fail]
  case message =>
    rcases rc6Decode_of_reading hframed hread with ⟨hend, -⟩ | ⟨-, h⟩
    · exact absurd ⟨hlast, rc6GapOk_iff.2 hgap⟩ hend
    · rw [h]
      exact ⟨rc6Message_eq_unsupportedMode_iff, fun c i => rc6Message_eq_ok_iff⟩

end Sys2Proof.Machine

end

/-! # The encoders' trains and the round trips (44_encoders.md R116 to R128, 43_rc6_decode.md R105 to R114)

The RC6 encoder is told bit by bit: `rc6PenAt b k` is the pen after the first `k` bits of the stream `b`, and it
has written up to the duration at which bit `k` begins (`rc6PenAt_length`), so a train is read back as the bits it
was written from (`rc6TrainOf_reading`). Every round trip is one theorem on a train heard up to its first `n` edges
(`rc6Decode_take`). A train ends in a gap that no transition closes, so the line shows the edges of the rest of
it, `rc6Heard`. The NEC train (`necHeard`) and the toggle bit stand before them. -/

section

namespace Sys2Proof.Machine

/-! ### Parts of a train (44 R126, R127) -/

/-- What a receiver hears of a train up to the end of an earlier duration does not depend on the later ones. -/
theorem dur_take {S : List Timestamp} {n i : Nat} (h : i < (S.take n).length) : dur (S.take n) i = dur S i := by
  rw [← dur_append (X := S.drop n) h, List.take_append_drop]

theorem samples_take (ts : List Nat) (n : Nat) : samples (ts.take n) = (samples ts).take n :=
  List.map_take

@[simp] theorem samples_length (ts : List Nat) : (samples ts).length = ts.length := List.length_map _

/-- The last boundary of a train is its end. -/
theorem getLast?_edges (p : PulseTrain) : (edges p).getLast? = some (p.sum / 2) := by
  have hlast : (edges p)[p.length]? = some ((edges p).getD p.length 0) := by
    rw [List.getD_eq_getElem _ _ (by simp), List.getElem?_eq_getElem]
  rw [List.getLast?_eq_getElem?, edges_length, Nat.add_sub_cancel, hlast, getD_edges p le_rfl, List.take_length]

/-- A train that ends in a space shows no transition at its end (44 R127). -/
theorem transitions_append_space {p : PulseTrain} (hodd : p.length % 2 = 1) (d : Nat) :
    transitions (p ++ [d]) = edges p := by
  have heven : (p ++ [d]).length % 2 = 0 := by
    rw [List.length_append, List.length_singleton]
    omega
  rw [transitions, if_pos heven, List.dropLast_eq_take, edges_length, List.length_append, List.length_singleton,
    Nat.add_sub_cancel, take_edges, List.take_left']
  rfl

/-- A train that ends in a mark shows a transition at every boundary (44 R127). -/
theorem transitions_of_odd {p : PulseTrain} (hodd : p.length % 2 = 1) : transitions p = edges p := by
  rw [transitions, if_neg (by omega)]

/-! ### NEC (44 R116, R117, R128) -/

@[simp] theorem necEncode_length (d c : Byte) : (necEncode d c).length = 67 := by simp [necEncode_eq]

/-- The 67 captured edges are all edges of the train but the end of its trailing mark (44 R117). -/
theorem captured_necEncode_eq_take (d c : Byte) :
    captured (necEncode d c) 67 = (edges (necEncode d c)).take 67 := by
  rw [captured, transitions_of_odd (by simp)]

/-- Settles O35: NECDecode reads no further than the 67 captured edges (`necDecodeReadsOnly67Edges`), and these
decode to the message (`necDecode_captured`). -/
theorem necRoundTrip : Obligations.NecRoundTrip := by
  intro d c
  have hcaptured := necDecode_captured d c
  refine ⟨?_, hcaptured⟩
  rw [captured_necEncode_eq_take, samples_take] at hcaptured
  rw [← List.take_append_drop 67 (samples (edges (necEncode d c))),
    necDecodeReadsOnly67Edges _ _ (by simp), hcaptured]

/-- Of a bit and its complement one is a one bit, and the two have three short durations. -/
theorem necBitTrain_count (b : Bool) :
    (necBitTrain b).count 3375 + (necBitTrain !b).count 3375 = 1 ∧
    (necBitTrain b).count 1125 + (necBitTrain !b).count 1125 = 3 := by
  cases b <;> decide

theorem flatMap_necBitTrain_count (bs : List Bool) :
    (bs.flatMap necBitTrain).count 3375 + ((bs.map (!·)).flatMap necBitTrain).count 3375 = bs.length ∧
    (bs.flatMap necBitTrain).count 1125 + ((bs.map (!·)).flatMap necBitTrain).count 1125 = 3 * bs.length := by
  induction bs with
  | nil => exact ⟨rfl, rfl⟩
  | cons b bs ih =>
    have hbit := necBitTrain_count b
    simp only [List.flatMap_cons, List.map_cons, List.count_append, List.length_cons]
    omega

/-- Every byte is sent with its complement, so all frames have 16 long spaces and 16 short ones, which are as long
as their 32 marks (44 R117). -/
theorem necHeard_count (d c : Byte) :
    (necHeard (necWord d c)).count 3375 = 16 ∧ (necHeard (necWord d c)).count 1125 = 48 := by
  have hd := flatMap_necBitTrain_count (msbBits d)
  have hc := flatMap_necBitTrain_count (msbBits c)
  have hleader {x : Nat} (hx : 18000 ≠ x ∧ 9000 ≠ x) (p : PulseTrain) :
      List.count x (18000 :: 9000 :: p) = p.count x := by
    rw [List.count_cons_of_ne hx.1, List.count_cons_of_ne hx.2]
  rw [necHeard, hleader (by decide), hleader (by decide)]
  simp only [msbBits_necWord, msbBits_complement, List.flatMap_append, List.count_append, msbBits_length] at hd hc ⊢
  omega

/-- Settles O33: the train is what is heard of it and the trailing mark (`necEncode_eq`), whose parts are counted
and summed by the bits and their complements. -/
theorem necTrainShape : Obligations.NecTrainShape := by
  intro d c
  have hlength := necEncode_length d c
  have hheard : (necEncode d c).take 66 = necHeard (necWord d c) := by
    rw [necEncode_eq, List.take_left' (by simp)]
  have hsum := necHeard_sum d c
  obtain ⟨hlong, hshort⟩ := necHeard_count d c
  refine ⟨hlength, ?transitions, ?long, ?short, ?total, ?heard, ?edge66, ?captured⟩
  case transitions => rw [transitions_of_odd (by simp), edges_length, hlength]
  case long => rw [necEncode_eq, List.count_append, hlong]; rfl
  case short => rw [necEncode_eq, List.count_append, hshort]; rfl
  case total => rw [necEncode_eq, List.sum_append, hsum]; rfl
  case heard => rw [hheard, hsum]
  case edge66 =>
    rw [List.getElem?_eq_getElem (by simp), ← List.getD_eq_getElem _ 0, getD_edges _ (by simp), hheard, hsum]
  case captured => rw [captured_necEncode_eq_take, List.dropLast_eq_take, edges_length, hlength]

/-! ### The toggle bit (44 R124) -/

/-- DISPATCH of a request flips the toggle iff it is an RC6 request, whatever the trigger's outcome. -/
theorem State.takeDispatch_toggle {s : State} {w : Word} {q : List Word} (hq : s.tx.txq = w :: q) (o : Trigger) :
    (s.takeDispatch o).tx.toggle = if !isNecRequest w then !s.tx.toggle else s.tx.toggle := by
  rcases s.takeDispatch_cases o w q hq with ⟨-, e⟩ | ⟨-, e⟩ <;> simp only [e] <;> rfl

theorem step_dispatch {s : State} {o : Trigger} {rest : List Event} (hsched : s.env.sched = .dispatch o :: rest)
    (he : s.tx.dispatchEnabled = true) : step s = .next ((s.afterEvent rest).takeDispatch o) := by
  rw [step_of_sched hsched, Event.step_of_enabled (s := s.afterEvent rest) (e := .dispatch o) he]
  rfl

/-- Every step but RESET and an enabled DISPATCH keeps the toggle; the DISPATCH sets it as the head says. -/
theorem step_toggle_cases {s t : State} (h : step s = .next t) (hreset : ∀ rest, s.env.sched ≠ .reset :: rest) :
    t.tx.toggle = s.tx.toggle ∨
    ∃ o rest w q, s.env.sched = .dispatch o :: rest ∧ s.tx.dispState = .ready ∧ s.tx.txq = w :: q ∧
      t.tx.toggle = if !isNecRequest w then !s.tx.toggle else s.tx.toggle := by
  cases step_blockStep h with
  | triggered env hsched hready hq => exact .inr ⟨_, _, _, _, hsched, hready, hq, rfl⟩
  | died env hsched hready hq => exact .inr ⟨_, _, _, _, hsched, hready, hq, rfl⟩
  | reset env hsched => exact absurd hsched (hreset _)
  | _ => exact .inl rfl

/-- Settles O44: the toggle is kept by all other steps (`step_toggle_cases`) and flipped by the DISPATCH of an RC6
request (`State.takeDispatch_toggle`). -/
theorem toggleFlipsExactlyAtRc6Dispatch : Obligations.ToggleFlipsExactlyAtRc6Dispatch := by
  intro s t hstep hreset
  constructor
  · intro hflip
    rcases step_toggle_cases hstep hreset with hkept | ⟨o, rest, w, q, hsched, hready, hq, htoggle⟩
    · simp [hkept] at hflip
    · refine ⟨o, rest, w, q, hsched, hready, hq, ?_⟩
      cases hw : isNecRequest w with
      | false => rfl
      | true => simp [hw, hflip] at htoggle
  · rintro ⟨o, rest, w, q, hsched, hready, hq, hw⟩
    rw [step_dispatch hsched ((Transmitter.dispatchEnabled_iff _).2 ⟨hready, w, q, hq⟩)] at hstep
    cases hstep
    rw [State.takeDispatch_toggle (s := s.afterEvent rest) hq, hw]
    rfl

/-! ### The RC6 pen after each bit (44 R119 to R122) -/

/-- The pen after the first `k` bits of the stream `b`. -/
def rc6PenAt (b : Nat → Bool) : Nat → Rc6Pen
  | 0 => rc6PenStart
  | k + 1 => rc6Emit (rc6PenAt b k) (b k) (rc6Width k)

/-- What the line shows of the train of the 20 bits `b`: a last bit 0 leaves its second half to be sent, the half of
a last bit 1 is a space and joins the gap (44 R122, R127). -/
def rc6Heard (b : Nat → Bool) : PulseTrain :=
  (rc6PenAt b 20).train ++ if rc6Before b 20 then [] else [1 * rc6UnitTicks]

/-- The units of the gap at the end of the train (44 R122). -/
def rc6Gap (b : Nat → Bool) : Nat := if rc6Before b 20 then 7 else 6

/-- The train of the 20 bits `b`. -/
def rc6TrainOf (b : Nat → Bool) : PulseTrain := rc6Heard b ++ [rc6Gap b * rc6UnitTicks]

/-- Bit `k` of the stream of a message. -/
def rc6BitAt (m : BitVec 3) (tg : Bool) (c i : Byte) (k : Nat) : Bool := (rc6BitStream m tg c i).getD k false

@[simp] theorem rc6Emit_level (p : Rc6Pen) (b : Bool) (w : Nat) : (rc6Emit p b w).level = b := by
  by_cases hb : b = p.level
  · rw [rc6Emit_same w hb, hb]
  · rw [rc6Emit_flip w hb]

@[simp] theorem rc6Emit_pending (p : Rc6Pen) (b : Bool) (w : Nat) : (rc6Emit p b w).pending = w := by
  by_cases hb : b = p.level
  · rw [rc6Emit_same w hb]
  · rw [rc6Emit_flip w hb]

theorem rc6EmitAll_append (p : Rc6Pen) (xs ys : List (Bool × Nat)) :
    rc6EmitAll p (xs ++ ys) = rc6EmitAll (rc6EmitAll p xs) ys := by
  induction xs generalizing p with
  | nil => rfl
  | cons x xs ih => exact ih _

section

variable (b : Nat → Bool)

theorem rc6EmitAll_range (n : Nat) :
    rc6EmitAll rc6PenStart ((List.range n).map fun k => (b k, rc6Width k)) = rc6PenAt b n := by
  induction n with
  | zero => rfl
  | succ n ih =>
    rw [List.range_succ, List.map_append, rc6EmitAll_append, ih]
    rfl

@[simp] theorem rc6PenAt_level (k : Nat) : (rc6PenAt b k).level = rc6Before b k := by
  cases k with
  | zero => rfl
  | succ k => rw [rc6PenAt, rc6Emit_level, rc6Before_succ]

@[simp] theorem rc6PenAt_pending (k : Nat) : (rc6PenAt b k).pending = rc6WidthBefore k := by
  cases k with
  | zero => rfl
  | succ k => rw [rc6PenAt, rc6Emit_pending, rc6WidthBefore_succ]

theorem rc6Finish_penAt : rc6Finish (rc6PenAt b 20) = rc6TrainOf b := by
  rw [rc6Finish, rc6PenAt_level, rc6PenAt_pending, rc6TrainOf, rc6Heard, rc6Gap]
  cases rc6Before b 20 <;> simp [rc6WidthBefore, rc6Width]

/-- The durations that bit `k` writes: it ends the half before it and sends its own first half, in one duration if
the two differ in level. -/
def rc6BitUnits (k : Nat) : List Nat :=
  if b k = rc6Before b k then [rc6WidthBefore k, rc6Width k] else [rc6WidthBefore k + rc6Width k]

theorem rc6PenAt_train_succ (k : Nat) :
    (rc6PenAt b (k + 1)).train = (rc6PenAt b k).train ++ (rc6BitUnits b k).map (· * rc6UnitTicks) := by
  rw [rc6PenAt, rc6BitUnits]
  by_cases hb : b k = rc6Before b k
  · rw [rc6Emit_same _ (by simpa using hb), if_pos hb, rc6PenAt_pending]
    rfl
  · rw [rc6Emit_flip _ (by simpa using hb), if_neg hb, rc6PenAt_pending]
    rfl

theorem rc6BitUnits_length (k : Nat) :
    (rc6BitUnits b k).length = if b k = rc6Before b k then 2 else 1 := by
  unfold rc6BitUnits
  split <;> rfl

/-- The pen has written up to the duration at which the next bit begins. -/
theorem rc6PenAt_length (k : Nat) : (rc6PenAt b k).train.length + 1 = rc6Begins b k := by
  induction k with
  | zero => rfl
  | succ k ih =>
    rw [rc6PenAt_train_succ, List.length_append, List.length_map, rc6BitUnits_length, rc6Begins, ← ih,
      Nat.add_right_comm]

/-- What has been written stays at the front of the train. -/
theorem rc6PenAt_prefix {k : Nat} (hk : k ≤ 20) : (rc6PenAt b k).train <+: rc6TrainOf b := by
  induction hk using Nat.decreasingInduction with
  | self => exact ⟨_, (List.append_assoc _ _ _).symm⟩
  | of_succ k _ ih =>
    rw [rc6PenAt_train_succ] at ih
    exact (List.prefix_append _ _).trans ih

end

/-- The encoder's train is the train of its stream's bits (44 R120 to R122). -/
theorem rc6Encode_eq (m : BitVec 3) (tg : Bool) (c i : Byte) :
    rc6Encode m tg c i = rc6TrainOf (rc6BitAt m tg c i) := by
  have hzip : (rc6BitStream m tg c i).zip rc6Widths =
      (List.range 20).map fun k => (rc6BitAt m tg c i k, rc6Width k) := by
    rw [show rc6Widths = (List.range 20).map rc6Width from rfl]
    refine List.ext_getElem (by simp) fun k hk _ => ?_
    simp only [List.length_zip, rc6BitStream_length, List.length_map, List.length_range, min_self] at hk
    rw [List.getElem_zip, List.getElem_map, List.getElem_map, List.getElem_range, rc6BitAt, List.getD_eq_getElem]
  rw [rc6Encode, hzip, rc6EmitAll_range, rc6Finish_penAt]

/-! ### The shape of a train (44 R123) -/

section

variable (b : Nat → Bool)

/-- Bits begin at even durations after a one and at odd ones after a zero: marks and spaces alternate. -/
theorem rc6Begins_mod_two (k : Nat) : rc6Begins b k % 2 = if rc6Before b k then 0 else 1 := by
  induction k with
  | zero => simp [rc6Begins, rc6Before]
  | succ k ih =>
    rw [rc6Begins, rc6Before_succ]
    by_cases hb : b k = rc6Before b k
    · rw [if_pos hb, hb, Nat.add_mod_right, ih]
    · rw [if_neg hb, Bool.eq_not.2 hb, Nat.add_mod, ih]
      cases rc6Before b k <;> rfl

/-- Each bit takes one or two durations. -/
theorem rc6Begins_add (k j : Nat) :
    rc6Begins b k + j ≤ rc6Begins b (k + j) ∧ rc6Begins b (k + j) ≤ rc6Begins b k + 2 * j := by
  induction j with
  | zero => simp
  | succ j ih =>
    rw [show k + (j + 1) = k + j + 1 from rfl, rc6Begins]
    split <;> omega

theorem rc6Begins_last_bounds : 24 ≤ rc6Begins b 20 ∧ rc6Begins b 20 ≤ 44 := rc6Begins_add b 0 20

theorem rc6Heard_length : (rc6Heard b).length + 1 = rc6Begins b 20 + if rc6Before b 20 then 0 else 1 := by
  rw [← rc6PenAt_length, rc6Heard, List.length_append]
  cases rc6Before b 20 <;> simp

theorem rc6TrainOf_length : (rc6TrainOf b).length = rc6Begins b 20 + if rc6Before b 20 then 0 else 1 := by
  rw [rc6TrainOf, List.length_append, List.length_singleton, rc6Heard_length]

theorem rc6TrainOf_length_even : (rc6TrainOf b).length % 2 = 0 := by
  have hparity := rc6Begins_mod_two b 20
  rw [rc6TrainOf_length]
  split_ifs at hparity ⊢ <;> omega

/-- The gap at the end of a train is no transition. -/
theorem transitions_rc6TrainOf : transitions (rc6TrainOf b) = edges (rc6Heard b) := by
  have heven := rc6TrainOf_length_even b
  rw [rc6TrainOf, List.length_append, List.length_singleton] at heven
  exact transitions_append_space (by omega) _

/-- Every half is sent once, besides the 10T of the leader and the start bit: the bits so far have taken twice their
width, less the half that is pending. -/
theorem rc6PenAt_sum (k : Nat) :
    (rc6PenAt b k).train.sum + rc6WidthBefore k * rc6UnitTicks =
      (10 + 2 * ((List.range k).map rc6Width).sum) * rc6UnitTicks := by
  induction k with
  | zero => rfl
  | succ k ih =>
    have hunits : ((rc6BitUnits b k).map (· * rc6UnitTicks)).sum =
        (rc6WidthBefore k + rc6Width k) * rc6UnitTicks := by
      unfold rc6BitUnits
      split <;> simp [Nat.add_mul]
    rw [rc6PenAt_train_succ, List.sum_append, hunits, rc6WidthBefore_succ, List.range_succ, List.map_append,
      List.sum_append, List.map_singleton, List.sum_singleton]
    linarith

theorem rc6Heard_sum : (rc6Heard b).sum = if rc6Before b 20 then 57 * rc6UnitTicks else 58 * rc6UnitTicks := by
  have hsum : (rc6PenAt b 20).train.sum + 1 * 888 = 58 * 888 := rc6PenAt_sum b 20
  rw [rc6Heard, List.sum_append]
  cases rc6Before b 20 <;> simp [rc6UnitTicks] <;> omega

theorem rc6TrainOf_sum : (rc6TrainOf b).sum = 64 * rc6UnitTicks := by
  rw [rc6TrainOf, List.sum_append, rc6Heard_sum, rc6Gap]
  cases rc6Before b 20 <;> rfl

/-- The durations of a train, in units. -/
def rc6Lengths : List Nat := [1, 2, 3, 4, 6, 7]

theorem rc6BitUnits_subset (k : Nat) : rc6BitUnits b k ⊆ rc6Lengths := by
  have hwidth (j : Nat) : rc6Width j ∈ [1, 2] := by
    unfold rc6Width
    split <;> decide
  have hbefore : rc6WidthBefore k ∈ [1, 2] := by
    cases k with
    | zero => decide
    | succ k => exact rc6WidthBefore_succ k ▸ hwidth k
  have hhalves : ∀ p ∈ [1, 2], ∀ w ∈ [1, 2], [p, w] ⊆ rc6Lengths ∧ [p + w] ⊆ rc6Lengths := by decide
  obtain ⟨hapart, hmerged⟩ := hhalves _ hbefore _ (hwidth k)
  unfold rc6BitUnits
  split
  · exact hapart
  · exact hmerged

theorem exists_units_of_mem_penAt (k : Nat) :
    ∀ d ∈ (rc6PenAt b k).train, ∃ u ∈ rc6Lengths, d = u * rc6UnitTicks := by
  induction k with
  | zero => exact (by decide : ∀ d ∈ rc6PenStart.train, ∃ u ∈ rc6Lengths, d = u * rc6UnitTicks)
  | succ k ih =>
    rw [rc6PenAt_train_succ]
    refine List.forall_mem_append.2 ⟨ih, fun d hd => ?_⟩
    obtain ⟨u, hu, rfl⟩ := List.mem_map.1 hd
    exact ⟨u, rc6BitUnits_subset b k hu, rfl⟩

theorem exists_units_of_mem_train :
    ∀ d ∈ rc6TrainOf b, ∃ u ∈ rc6Lengths, d = u * rc6UnitTicks := by
  simp only [rc6TrainOf, rc6Heard, List.forall_mem_append]
  refine ⟨⟨exists_units_of_mem_penAt b 20, ?_⟩, ?_⟩
  · cases rc6Before b 20 <;> decide
  · rw [rc6Gap]
    cases rc6Before b 20 <;> decide

end

/-! ### The bits of a message's stream (44 R120) -/

theorem getD_msbBits {n : Nat} (v : BitVec n) {j : Nat} (hj : j < n) :
    (msbBits v).getD j false = v.getLsbD (n - 1 - j) := by
  rw [List.getD_eq_getElem _ _ (by simpa using hj)]
  simp [msbBits]

section

variable (m : BitVec 3) (tg : Bool) (c i : Byte) {j : Nat}

theorem rc6BitAt_mode (hj : j < 3) : rc6BitAt m tg c i j = m.getLsbD (2 - j) := by
  rw [rc6BitAt, rc6BitStream, List.append_assoc, List.append_assoc, List.getD_append _ _ _ _ (by simpa using hj),
    getD_msbBits m hj]

theorem rc6BitAt_control (hj : j < 8) : rc6BitAt m tg c i (4 + j) = c.getLsbD (7 - j) := by
  rw [rc6BitAt, rc6BitStream, List.getD_append _ _ _ _ (by simp; omega), List.getD_append_right _ _ _ _ (by simp),
    ← getD_msbBits c hj]
  simp

theorem rc6BitAt_info (hj : j < 8) : rc6BitAt m tg c i (12 + j) = i.getLsbD (7 - j) := by
  rw [rc6BitAt, rc6BitStream, List.getD_append_right _ _ _ _ (by simp), ← getD_msbBits i hj]
  simp

theorem rc6Before_last : rc6Before (rc6BitAt m tg c i) 20 = i.getLsbD 0 :=
  (rc6Before_succ _ 19).trans (rc6BitAt_info m tg c i (j := 7) (by omega))

/-- A mode is 0 iff its three bits are. -/
theorem mode_eq_zero_iff_rc6BitAt : m = 0 ↔
    rc6BitAt m tg c i 0 = false ∧ rc6BitAt m tg c i 1 = false ∧ rc6BitAt m tg c i 2 = false := by
  rw [rc6BitAt_mode m tg c i (by omega), rc6BitAt_mode m tg c i (by omega), rc6BitAt_mode m tg c i (by omega)]
  revert m
  decide

end

/-- A mode of three 0 bits takes one duration and then twice two. -/
theorem rc6Begins_three {b : Nat → Bool} (h : b 0 = false ∧ b 1 = false ∧ b 2 = false) : rc6Begins b 3 = 9 := by
  obtain ⟨h0, h1, h2⟩ := h
  simp [rc6Begins, rc6Before, h0, h1, h2]

/-- Settles O34: the bits take one or two durations each (`rc6Begins_add`), and every half is sent once
(`rc6PenAt_sum`). -/
theorem rc6TrainShape : Obligations.Rc6TrainShape := by
  intro m tg c i
  have hlast := rc6Before_last m tg c i
  have hmode := mode_eq_zero_iff_rc6BitAt m tg c i
  rw [rc6Encode_eq]
  generalize rc6BitAt m tg c i = b at *
  obtain ⟨hleast, hmost⟩ := rc6Begins_last_bounds b
  have hparity := rc6Begins_mod_two b 20
  have hlength := rc6TrainOf_length b
  refine ⟨by omega, ?most, ?zero, exists_units_of_mem_train b, rc6TrainOf_sum b, ?transitions, ?last⟩
  case most => split_ifs at hlength hparity <;> omega
  case zero =>
    intro hm
    have hthree := rc6Begins_three (hmode.1 hm)
    have hrest : rc6Begins b 3 + 17 ≤ rc6Begins b 20 := (rc6Begins_add b 3 17).1
    omega
  case transitions =>
    rw [transitions_rc6TrainOf, edges_length, rc6TrainOf, List.length_append, List.length_singleton]
  case last =>
    rw [transitions_rc6TrainOf, getLast?_edges, rc6Heard_sum, hlast]
    cases i.getLsbD 0 <;> rfl

/-! ### A train is read back (43 R105 to R114, 44 R128) -/

/-- A reading depends only on the durations before its end. -/
theorem Rc6Reading.of_agree {U V : Nat → Nat} {n l : Nat} {b : Nat → Bool} {p : Nat → Nat}
    (h : Rc6Reading U n b p) (hl : p 20 ≤ l) (hUV : ∀ j < p 20, V j = U j) : Rc6Reading V l b p := by
  have hend {k : Nat} (hk : k ≤ 20) : p k ≤ p 20 := by
    induction hk using Nat.decreasingInduction with
    | self => exact le_rfl
    | of_succ k hk ih =>
      have hnext := h.next k hk
      omega
  refine ⟨h.start, h.next, fun k hk => (hend (by omega)).trans hl, fun k hk hne => ?_, fun k hk heq => ?_⟩
  all_goals
    have hnext := h.next k hk
    have hle : p (k + 1) ≤ p 20 := hend hk
  · rw [if_neg hne] at hnext
    rw [hUV _ (by omega), h.merged k hk hne]
  · rw [if_pos heq] at hnext
    rw [hUV _ (by omega), hUV _ (by omega)]
    exact h.apart k hk heq

section

variable (ties : TieRule)

/-- A duration of whole units is heard as that many units. -/
theorem rc6Units_edges {p : PulseTrain} {j u : Nat} (hu : u ≤ 7) (h : p[j]? = some (u * rc6UnitTicks)) :
    rc6Units ties (samples (edges p)) (j + 1) = u := by
  unfold rc6UnitTicks at h
  have hbounds := dur_edges_bounds h (by omega)
  have hdur : dur (samples (edges p)) (j + 1) = u * 444 := by omega
  rw [rc6Units, hdur, rdiv_units]

theorem rc6Units_take {S : List Timestamp} {n j : Nat} (h : j < (S.take n).length) :
    rc6Units ties (S.take n) j = rc6Units ties S j := by
  rw [rc6Units, dur_take h]

/-- The samples of a train that is heard to its end. -/
abbrev rc6Samples (b : Nat → Bool) : List Timestamp := samples (edges (rc6TrainOf b))

variable (b : Nat → Bool) {n : Nat}

theorem rc6Samples_length :
    (rc6Samples b).length = rc6Begins b 20 + (if rc6Before b 20 then 0 else 1) + 1 := by
  rw [samples_length, edges_length, rc6TrainOf_length]

/-- The durations from `k` bits on are those written after `k` bits. -/
theorem rc6Units_of_penAt {k j u : Nat} {rest : PulseTrain} (h : (rc6PenAt b k).train ++ rest = rc6TrainOf b)
    (hu : u ≤ 7) (hrest : rest[j]? = some (u * rc6UnitTicks)) :
    rc6Units ties (rc6Samples b) (rc6Begins b k + j) = u := by
  rw [← rc6PenAt_length, Nat.add_right_comm]
  refine rc6Units_edges ties hu ?_
  rw [← h, List.getElem?_append_right (by omega), Nat.add_sub_cancel_left, hrest]

/-- Bit `k` is heard as the units it was written in. -/
theorem rc6Units_bit {k j u : Nat} (hk : k < 20) (h : (rc6BitUnits b k)[j]? = some u) :
    rc6Units ties (rc6Samples b) (rc6Begins b k + j) = u := by
  have hu : ∀ x ∈ rc6Lengths, x ≤ 7 := by decide
  obtain ⟨rest, hrest⟩ := rc6PenAt_prefix b (k := k + 1) hk
  rw [rc6PenAt_train_succ, List.append_assoc] at hrest
  refine rc6Units_of_penAt ties b hrest (hu _ (rc6BitUnits_subset b k (List.mem_of_getElem? h))) ?_
  rw [List.getElem?_append_left (by simpa using (List.getElem?_eq_some_iff.1 h).1), List.getElem?_map, h]
  rfl

/-- After a last bit 1 comes the gap with the bit's second half. -/
theorem rc6Units_gap_of_one (h : rc6Before b 20 = true) :
    rc6Units ties (rc6Samples b) (rc6Begins b 20) = 7 := by
  have hend : (rc6PenAt b 20).train ++ [7 * rc6UnitTicks] = rc6TrainOf b := by
    rw [rc6TrainOf, rc6Heard, rc6Gap, if_pos h, if_pos h, List.append_nil]
  rw [← Nat.add_zero (rc6Begins b 20)]
  exact rc6Units_of_penAt ties b hend (by omega) rfl

/-- After a last bit 0 come the bit's second half and the gap. -/
theorem rc6Units_end_of_zero (h : rc6Before b 20 = false) :
    rc6Units ties (rc6Samples b) (rc6Begins b 20) = 1 ∧ rc6Units ties (rc6Samples b) (rc6Begins b 20 + 1) = 6 := by
  have hend : (rc6PenAt b 20).train ++ [1 * rc6UnitTicks, 6 * rc6UnitTicks] = rc6TrainOf b := by
    rw [rc6TrainOf, rc6Heard, rc6Gap, h, if_neg nofun, if_neg nofun, List.append_assoc, List.singleton_append]
  refine ⟨?_, rc6Units_of_penAt ties b hend (by omega) rfl⟩
  rw [← Nat.add_zero (rc6Begins b 20)]
  exact rc6Units_of_penAt ties b hend (by omega) rfl

/-- A train is read as the bits it was written from. -/
theorem rc6TrainOf_reading :
    Rc6Reading (rc6Units ties (rc6Samples b)) (rc6Samples b).length b (rc6Begins b) := by
  refine rc6Reading_iff.2 ⟨rfl, fun k hk => ⟨rfl, ?inside, fun hne => ?merged, fun heq => ⟨?half, ?own⟩⟩⟩
  case inside =>
    have hle := (rc6Begins_add b (k + 1) (20 - (k + 1))).1
    rw [Nat.add_sub_cancel' hk] at hle
    rw [rc6Samples_length]
    omega
  case merged => exact rc6Units_bit ties b (j := 0) hk (by rw [rc6BitUnits, if_neg hne]; rfl)
  case half => exact rc6Units_bit ties b (j := 0) hk (by rw [rc6BitUnits, if_pos heq]; rfl)
  case own => exact rc6Units_bit ties b hk (by rw [rc6BitUnits, if_pos heq]; rfl)

/-- The leader and the start bit of every train are good (43 R102 to R104). -/
theorem rc6TrainOf_framed (hn : 4 ≤ n) : Rc6Framed ties ((rc6Samples b).take n) := by
  have hlength : 4 ≤ ((rc6Samples b).take n).length := by
    obtain ⟨hbegins, -⟩ := rc6Begins_last_bounds b
    rw [List.length_take, rc6Samples_length]
    exact le_min hn (by omega)
  obtain ⟨rest, hrest⟩ := rc6PenAt_prefix b (Nat.zero_le 20)
  have hmark : 2664 ≤ dur (rc6Samples b) 1 ∧ dur (rc6Samples b) 1 ≤ 2664 :=
    dur_edges_bounds (i := 0) (d := 5328) (by rw [← hrest]; rfl) (by omega)
  have hspace : 888 ≤ dur (rc6Samples b) 2 ∧ dur (rc6Samples b) 2 ≤ 888 :=
    dur_edges_bounds (i := 1) (d := 1776) (by rw [← hrest]; rfl) (by omega)
  have hstart : rc6Units ties (rc6Samples b) 3 = 1 :=
    rc6Units_edges ties (j := 2) (by omega) (by rw [← hrest]; rfl)
  rw [Rc6Framed, rc6Units_take ties (by omega), dur_take (i := 1) (by omega), dur_take (i := 2) (by omega)]
  exact ⟨hlength, by omega, hstart⟩

/-- Wherever a train is cut behind its bits, it ends well: whatever is heard of the last half and the gap is good
(43 R110, R111). -/
theorem rc6TrainOf_endOk : Rc6EndOk ties ((rc6Samples b).take n) (rc6CursorAt b (rc6Begins b) 20) := by
  have hnext : (rc6CursorAt b (rc6Begins b) 20).next = rc6Begins b 20 := rfl
  have hlevel : (rc6CursorAt b (rc6Begins b) 20).level = rc6Before b 20 := rfl
  rw [Rc6EndOk, rc6GapOk_iff, rc6GapIndex, hnext, hlevel]
  by_cases hlast : rc6Before b 20 = true
  · have hone : ¬ rc6Before b 20 = false := by rw [hlast]; nofun
    refine ⟨fun hzero => absurd hzero hone, ?_⟩
    rw [if_neg fun h => hone h.1]
    exact fun hj => .inr (.inr ((rc6Units_take ties hj).trans (rc6Units_gap_of_one ties b hlast)))
  · have hzero : rc6Before b 20 = false := Bool.eq_false_of_not_eq_true hlast
    obtain ⟨hhalf, hgap⟩ := rc6Units_end_of_zero ties b hzero
    refine ⟨fun _ hj => (rc6Units_take ties hj).trans hhalf, ?_⟩
    split_ifs with hheard
    · exact fun hj => .inr (.inl ((rc6Units_take ties hj).trans hgap))
    · exact fun hj => absurd ⟨hzero, hj⟩ hheard

/-- The round trip on a train heard up to its first `n` edges: it gives the message of its bits if all of them have
begun their own half by then, and is unreadable otherwise (43 R108, 44 R128). -/
theorem rc6Decode_take (hn : 4 ≤ n) :
    rc6Decode ties ((rc6Samples b).take n) =
      if rc6Begins b 20 ≤ n then rc6Message ((List.range 20).map b) else .fail .malformedSymbol := by
  have hframed := rc6TrainOf_framed ties b hn
  have hread := rc6TrainOf_reading ties b
  have hend := rc6TrainOf_endOk ties b (n := n)
  have hlength : rc6Begins b 20 ≤ n ↔ rc6Begins b 20 ≤ ((rc6Samples b).take n).length := by
    rw [List.length_take, rc6Samples_length]
    omega
  have hunits {q : Nat} (hq : q ≤ ((rc6Samples b).take n).length) :
      ∀ j < q, rc6Units ties (rc6Samples b) j = rc6Units ties ((rc6Samples b).take n) j :=
    fun j hj => (rc6Units_take ties (hj.trans_le hq)).symm
  split_ifs with hcut
  · have hle := hlength.1 hcut
    rcases rc6Decode_of_reading hframed (hread.of_agree hle fun j hj => (hunits hle j hj).symm) with
      ⟨hbad, -⟩ | ⟨-, hmessage⟩
    · exact absurd hend hbad
    · exact hmessage
  · refine rc6Decode_of_unreadable hframed fun b' p' hread' => hcut (hlength.2 ?_)
    have hle : p' 20 ≤ ((rc6Samples b).take n).length := hread'.inside 19 (by omega)
    have hfull : Rc6Reading (rc6Units ties (rc6Samples b)) (rc6Samples b).length b' p' :=
      hread'.of_agree (hle.trans (List.length_take_le' _ _)) (hunits hle)
    have hcursor := (rc6Bits_of_reading hfull).symm.trans (rc6Bits_of_reading hread)
    have hsame : p' 20 = rc6Begins b 20 := congrArg Rc6Cursor.next (Option.some.inj hcursor)
    exact hsame ▸ hle

/-- A train that is heard to its end gives the message of its bits. -/
theorem rc6Decode_train : rc6Decode ties (rc6Samples b) = rc6Message ((List.range 20).map b) := by
  obtain ⟨hbegins, -⟩ := rc6Begins_last_bounds b
  have hlength := rc6Samples_length b
  rw [← List.take_length (l := rc6Samples b), rc6Decode_take ties b (by omega), if_pos (by omega)]

end

/-! ### The messages of the trains (44 R128) -/

theorem rc6Message_of_mode_zero (tg : Bool) (c i : Byte) :
    rc6Message ((List.range 20).map (rc6BitAt 0 tg c i)) = .ok (.rc6 0 c i) :=
  rc6Message_eq_ok_iff.2 ⟨(mode_eq_zero_iff_rc6BitAt 0 tg c i).1 rfl, fun _ hj =>
    ⟨(rc6BitAt_control 0 tg c i hj).symm, (rc6BitAt_info 0 tg c i hj).symm⟩⟩

/-- Settles O36: the train is read back whole (`rc6Decode_train`), and its bits are the message's. -/
theorem rc6RoundTrip : Obligations.Rc6RoundTrip := by
  intro ties tg c i
  rw [rc6Encode_eq, rc6Decode_train, rc6Message_of_mode_zero]

/-- Settles O37: the train is read back whole (`rc6Decode_train`), and one of its three mode bits is 1. -/
theorem rc6OtherModesAreUnsupported : Obligations.Rc6OtherModesAreUnsupported := by
  intro ties m tg c i hm
  rw [rc6Encode_eq, rc6Decode_train, rc6Message_eq_unsupportedMode_iff]
  simpa only [ne_eq, mode_eq_zero_iff_rc6BitAt m tg c i, not_and_or, Bool.not_eq_false] using hm

/-- What the buffer holds of a train is cut from the samples of all its edges. -/
theorem samples_captured_rc6TrainOf (b : Nat → Bool) (n : Nat) :
    samples (captured (rc6TrainOf b) n) = (rc6Samples b).take (min n (rc6TrainOf b).length) := by
  have hheard : edges (rc6Heard b) = (edges (rc6TrainOf b)).take (rc6TrainOf b).length := by
    rw [rc6TrainOf, List.length_append, List.length_singleton, take_edges, List.take_left' rfl]
  rw [captured, transitions_rc6TrainOf, hheard, List.take_take, samples_take]

/-- Settles O38: the buffer cuts the train (`rc6Decode_take`). A train has as many transitions as durations, and
their number is even, so it is at most 28 exactly if the last bit begins its own half before that. -/
theorem rc6BufferCutsLongFrames : Obligations.Rc6BufferCutsLongFrames := by
  intro ties tg c i
  have hmessage := rc6Message_of_mode_zero tg c i
  rw [rc6Encode_eq]
  generalize rc6BitAt 0 tg c i = b at *
  obtain ⟨hbegins, -⟩ := rc6Begins_last_bounds b
  have hparity := rc6Begins_mod_two b 20
  have hlength := rc6TrainOf_length b
  have hcut : rc6Begins b 20 ≤ min 28 (rc6TrainOf b).length ↔ (rc6TrainOf b).length ≤ 28 := by
    split_ifs at hparity hlength <;> omega
  rw [samples_captured_rc6TrainOf, rc6Decode_take ties b (by omega), hmessage]
  exact if_congr hcut rfl rfl

end Sys2Proof.Machine

end

/-! # The transmit queue and its dispatcher (45_transceiver_queue.md R129 to R143)

What a run sends is an induction along its schedule that carries the requests accepted so far
(`runSteps_accepted_induction`): each event's step adds what it accepts (`State.acceptedBy`), and what is popped
and what is played keep in step (`State.Sent.step`). That the two sides are independent is said once for the events
of each side, of two states that agree on it (`Event.OfTransmit.step`, `Event.OfReceive.step`), and once for its
commands (`exec_request_both`, `exec_setmode_both`). -/

section

namespace Sys2Proof.Machine

/-! ### Enqueue (R129 to R132) -/

theorem State.hasRoom_iff {s : State} : s.hasRoom = true ↔ s.tx.txq.length < s.cfg.txqDepth := decide_eq_true_iff

theorem State.hasRoom_eq_false_iff {s : State} : s.hasRoom = false ↔ s.cfg.txqDepth ≤ s.tx.txq.length := by
  rw [State.hasRoom, decide_eq_false_iff_not, not_lt]

theorem State.requestOrWait_of_room {s : State} (h : s.hasRoom = true) (w : Word) :
    s.requestOrWait w = .next (s.acceptRequest w) := if_pos h

/-- Settles O17: the word that the encoder gives, by its value. -/
theorem enqnecAppendsItsWord : Obligations.EnqnecAppendsItsWord := by
  intro s dev cmd hroom
  rw [← encode_enqnec_eq_ofNat]
  exact State.requestOrWait_of_room (State.hasRoom_iff.2 hroom) (encode (.enqnec dev cmd))

/-- Settles O18: the word that the encoder gives, by its value. -/
theorem enqrc6AppendsItsWord : Obligations.Enqrc6AppendsItsWord := by
  intro s mode ctrl info hroom
  rw [← encode_enqrc6_eq_ofNat]
  exact State.requestOrWait_of_room (State.hasRoom_iff.2 hroom) (encode (.enqrc6 mode ctrl info))

/-- Settles O20: OP selects the encoder, and the other fields are its operands. -/
theorem storedRequestSelectsItsEncoder : Obligations.StoredRequestSelectsItsEncoder := by
  intro tg m a b
  constructor
  · obtain ⟨hop, -, hdev, hcmd⟩ := fields_encode_enqnec a b
    simp [encodeRequest, isNecRequest, requestHigh, requestLow, hop, hdev, hcmd]
  · obtain ⟨hop, -, hmode, hctrl, hinfo⟩ := fields_encode_enqrc6 m a b
    simp [encodeRequest, isNecRequest, requestHigh, requestLow, requestMode, hop, hmode, hctrl, hinfo]

/-! ### The wait on a full FIFO (R131) -/

section

variable {s : State} {i : Instr}

/-- A command that is no SETMODE waits exactly while the FIFO is full. -/
theorem commandHeld_of_request (hi : ∀ m, i ≠ .setmode m) : commandHeld i s = !s.hasRoom := by
  cases i with
  | setmode m => exact absurd rfl (hi m)
  | _ => rfl

theorem exec_request (hi : ∀ m, i ≠ .setmode m) (s : State) : exec i s = s.requestOrWait (encode i) := by
  cases i with
  | setmode m => exact absurd rfl (hi m)
  | _ => rfl

theorem Instr.wellFormed_of_request (hi : ∀ m, i ≠ .setmode m) : i.wellFormed = true := by
  cases i with
  | setmode m => exact absurd rfl (hi m)
  | _ => rfl

/-- An access that waits is a write of an ENQ word on a full FIFO. -/
theorem State.eq_write_of_accessHeld {a : HostAccess} (h : s.accessHeld a = true) :
    s.hasRoom = false ∧ ∃ addr n w i, a = .write addr n w ∧ decode w = .command i ∧ ∀ m, i ≠ .setmode m := by
  cases a with
  | read addr n => cases h
  | write addr n w =>
    cases hd : decode w with
    | illegal why => simp [State.accessHeld, hd] at h
    | command i =>
      simp only [State.accessHeld, hd, Bool.and_eq_true] at h
      obtain ⟨-, hheld⟩ := h
      have hi : ∀ m, i ≠ .setmode m := by
        rintro m rfl
        cases hheld
      rw [commandHeld_of_request hi, Bool.not_eq_true'] at hheld
      exact ⟨hheld, addr, n, w, i, rfl, hd, hi⟩

end

/-- An ENQ word that HOST writes with room in the FIFO is accepted, and the access is over. -/
theorem step_enqueue {s : State} {rest : List Event} {more : List HostAccess} {i : Instr}
    (hi : ∀ m, i ≠ .setmode m) (hsched : s.env.sched = .host :: rest)
    (hhost : s.env.host = .write s.cfg.mmioBase 4 (encode i) :: more) (hroom : s.hasRoom = true) :
    step s = .next (((s.afterEvent rest).answer .done).acceptRequest (encode i)) := by
  rw [step_write_command hsched hhost (decode_encode (Instr.wellFormed_of_request hi)),
    commandHeld_of_request hi, hroom, Bool.not_true, if_neg Bool.false_ne_true, exec_request hi]
  exact State.requestOrWait_of_room (s := (s.afterEvent rest).answer .done) hroom (encode i)

/-- A DISPATCH pops the head and leaves the rest of the FIFO, whatever the trigger's outcome. -/
theorem State.takeDispatch_pops {s : State} {w : Word} {q : List Word} (hq : s.tx.txq = w :: q) (o : Trigger) :
    (s.takeDispatch o).tx.txq = q ∧ (s.takeDispatch o).tx.txEnqCount = s.tx.txEnqCount ∧
    (s.takeDispatch o).cfg = s.cfg ∧ (s.takeDispatch o).env = s.env := by
  rcases s.takeDispatch_cases o w q hq with ⟨-, e⟩ | ⟨-, e⟩ <;> simp [e]

/-- Settles O19: the held write is still HOST's next access when the DISPATCH has made room for its word, and
what waits at all is an ENQ word. -/
theorem enqOnAFullFifoWaits : Obligations.EnqOnAFullFifoWaits := by
  intro s i hrequest hfull
  have hi : ∀ m, i ≠ .setmode m := by
    rcases hrequest with ⟨_, _, rfl⟩ | ⟨_, _, _, rfl⟩ <;> exact nofun
  have hroom : s.hasRoom = false := State.hasRoom_eq_false_iff.2 hfull.ge
  refine ⟨?waits, ?held, ?taken, fun _ _ => rfl, fun addr n m => ?setmode, fun addr n w why hw => ?illegal⟩
  case waits => rw [exec_request hi, State.requestOrWait, hroom, if_neg Bool.false_ne_true]
  case held =>
    intro rest more hsched hhost
    rw [step_write_command hsched hhost (decode_encode (Instr.wellFormed_of_request hi)),
      commandHeld_of_request hi, hroom, Bool.not_false, if_pos rfl]
  case taken =>
    intro o rest more hsched hready hdepth hhost
    obtain ⟨w, q, hq⟩ := List.exists_cons_of_length_pos (hfull ▸ hdepth)
    have hdispatch := step_dispatch hsched ((Transmitter.dispatchEnabled_iff _).2 ⟨hready, w, q, hq⟩)
    obtain ⟨htxq, henq, hcfg, henv⟩ :=
      State.takeDispatch_pops (s := s.afterEvent (.host :: rest)) hq o
    have hroom' : ((s.afterEvent (.host :: rest)).takeDispatch o).hasRoom = true := by
      rw [State.hasRoom_iff, htxq, hcfg, State.afterEvent_cfg, ← hfull, hq]
      exact Nat.lt_succ_self _
    have henqueue := step_enqueue (rest := rest) (more := more) hi (by rw [henv]; rfl)
      (by rw [henv, hcfg]; exact hhost) hroom'
    refine ⟨_, by rw [runSteps_succ_of_step hdispatch, runSteps_succ_of_step henqueue]; rfl, ?_, ?_, ?_⟩
    · simp [htxq, hq]
    · simp [henq]
    · simp [henv, hhost]
  case setmode =>
    rw [← Bool.not_eq_true]
    intro hheld
    obtain ⟨-, _, _, w, j, ha, hd, hj⟩ := State.eq_write_of_accessHeld hheld
    cases ha
    have hop := opField_of_decode hd
    rw [(fields_encode_setmode m).1] at hop
    cases j with
    | setmode m' => exact hj m' rfl
    | _ => cases hop
  case illegal =>
    rw [← Bool.not_eq_true]
    intro hheld
    obtain ⟨-, _, _, _, j, ha, hd, -⟩ := State.eq_write_of_accessHeld hheld
    cases ha
    rw [hw] at hd
    cases hd

/-! ### DISPATCH and PLAY_DONE (R133 to R135) -/

theorem Event.enabled_dispatch_iff {s : State} {o : Trigger} :
    Event.enabled s (.dispatch o) = true ↔ s.tx.dispState = .ready ∧ s.tx.txq ≠ [] := by
  rw [List.ne_nil_iff_exists_cons]
  exact Transmitter.dispatchEnabled_iff s.tx

theorem Event.enabled_playDone_iff {s : State} : Event.enabled s .playDone = true ↔ s.tx.dispState = .busy :=
  decide_eq_true_iff

theorem isNecRequest_iff {w : Word} : isNecRequest w = true ↔ w.extractLsb' 28 4 = 2 := beq_iff_eq

/-- Settles O40: OP = 2 is what `isNecRequest` asks, for the encoder and for the toggle alike. -/
theorem dispatchPopsEncodesAndTriggers : Obligations.DispatchPopsEncodesAndTriggers := by
  intro s o rest hsched
  refine ⟨Event.enabled_dispatch_iff, fun w q hready hq => ?_⟩
  rw [step_dispatch hsched ((Transmitter.dispatchEnabled_iff _).2 ⟨hready, w, q, hq⟩)]
  simp only [← isNecRequest_iff]
  rcases (s.afterEvent rest).takeDispatch_cases o w q hq with ⟨rfl, e⟩ | ⟨rfl, e⟩
  · rw [e]
    cases hw : isNecRequest w
    all_goals
      simp [Transmitter.pop, Transmitter.start, encodeRequest, requestHigh, requestLow, requestMode, hw]
  · rw [e]
    cases isNecRequest w <;> simp [State.raise, Transmitter.pop]

/-- Settles O41: `takePlayDone` on the rest of the schedule. -/
theorem playDoneReturnsToReady : Obligations.PlayDoneReturnsToReady := by
  intro s rest hsched
  refine ⟨Event.enabled_playDone_iff, fun hbusy => ?_⟩
  rw [step_of_sched hsched, Event.step_of_enabled (s := s.afterEvent rest) (Event.enabled_playDone_iff.2 hbusy)]
  rfl

/-! ### Tags (R138, R139, R142) -/

/-- A tag counts as passed for the half of the counter's range that follows it. -/
theorem tagPassed_add_iff (k : Word) {j : Nat} (hj : j < 2 ^ 32) :
    tagPassed k (k + BitVec.ofNat 32 j) = true ↔ 1 ≤ j ∧ j ≤ 2 ^ 31 := by
  have hdiff : (k + BitVec.ofNat 32 j - k).toNat = j := by
    rw [BitVec.add_comm, BitVec.add_sub_cancel, BitVec.toNat_ofNat, Nat.mod_eq_of_lt hj]
  simp only [tagPassed, hdiff, Bool.and_eq_true, decide_eq_true_eq]

/-- A counter that is `p` short of a tag, `p` less than half its range, has not passed it. -/
theorem tagPassed_ahead (k : Word) {p : Nat} (hp : p < 2 ^ 31) : tagPassed (k + BitVec.ofNat 32 p) k = false := by
  have hcount : k = k + BitVec.ofNat 32 p + BitVec.ofNat 32 ((2 ^ 32 - p) % 2 ^ 32) := by
    apply BitVec.eq_of_toNat_eq
    simp only [BitVec.toNat_add, BitVec.toNat_ofNat]
    omega
  rw [← Bool.not_eq_true]
  nth_rewrite 2 [hcount]
  rw [tagPassed_add_iff _ (Nat.mod_lt _ (by decide))]
  omega

/-- Settles O46: the FIFO is shorter than half the counter's range (10 R39 items 5 and 7). -/
theorem queuedRequestsAreNotComplete : Obligations.QueuedRequestsAreNotComplete := by
  intro s hinv
  have hlength := hinv.tx_inv.txq_le_depth
  obtain ⟨-, -, ⟨-, hdepth⟩, -⟩ := hinv.cfg_valid
  refine ⟨?_, fun p hp => tagPassed_ahead _ (by omega), fun k j hj => tagPassed_add_iff k hj⟩
  rw [← hinv.tx_inv.enq_pop, BitVec.add_comm, BitVec.sub_add_cancel]

/-! ### While BUSY and while DEAD (R136, R140, R141) -/

/-- Settles O42: of the eleven ways of `State.BlockStep`, DISPATCH needs READY, and what remains keeps the playback. -/
theorem singleFlight : Obligations.SingleFlight := by
  intro s t hstep hbusy hreset hplay
  have hkept : s.TransmitKept t := by
    cases step_blockStep hstep with
    | accepted => constructor <;> simp
    | triggered _ _ hready | died _ _ hready => simp [hbusy] at hready
    | finished _ hsched => exact absurd hsched (hplay _)
    | reset _ hsched => exact absurd hsched (hreset _)
    | edge | delivered | failed | kept | illegalWord | setmode => exact .of_eq rfl rfl
  refine ⟨hkept.dispState_eq.trans hbusy, hkept.pulseTrain_eq, hkept.txCur_eq, hkept.txPopCount_eq,
    hkept.txOut_eq, hkept.txq_prefix, fun o => ?_⟩
  rw [← Bool.not_eq_true, Event.enabled_dispatch_iff, hkept.dispState_eq, hbusy]
  simp

theorem acceptedIn_of_nil {s : State} (h : s.env.sched = []) (n : Nat) : acceptedIn n s = [] := by
  cases n <;> simp [acceptedIn, h]

/-- What holds of a start state and the requests accepted before it, and is kept by every event but RESET with
what that event accepts, holds after a run without RESET with what the run accepts. -/
theorem runSteps_accepted_induction {P : List Word → State → Prop}
    (hevent : ∀ {acc s t e rest}, P acc s → e ≠ .reset → e.step (s.afterEvent rest) = .next t →
      P (acc ++ s.acceptedBy e) t)
    {n : Nat} {acc : List Word} {s t : State} (hs : P acc s) (hreset : ∀ e ∈ s.env.sched.take n, e ≠ .reset)
    (hrun : runSteps n s = .next t) : P (acc ++ acceptedIn n s) t := by
  induction n generalizing acc s with
  | zero =>
    cases hrun
    rwa [acceptedIn, List.append_nil]
  | succ n ih =>
    cases hsched : s.env.sched with
    | nil =>
      have hstep : step s = .next s := by simp [step, State.stepSchedule, hsched]
      rw [runSteps_succ_of_step hstep] at hrun
      have := ih hs (by simp [hsched]) hrun
      rwa [acceptedIn_of_nil hsched] at this ⊢
    | cons e rest =>
      rw [hsched, List.take_succ_cons, List.forall_mem_cons] at hreset
      rw [runSteps] at hrun
      split at hrun
      case h_1 u hu =>
        have hrest := step_sched hsched hu
        rw [step_of_sched hsched] at hu
        have := ih (hevent hs hreset.1 hu) (hrest ▸ hreset.2) hrun
        simpa only [acceptedIn, hsched, hu, List.append_assoc] using this
      all_goals cases hrun

/-- Settles O43: a DEAD dispatcher takes no step and there is no playback to end. -/
theorem deadUntilReset : Obligations.DeadUntilReset := by
  intro n s t hrun hdead hreset
  have hkept : s.TransmitKept t := by
    refine runSteps_accepted_induction (P := fun _ u => s.TransmitKept u) (acc := [])
      (fun {_ u v e rest} hu hne hstep => ?_) (.refl s) hreset hrun
    have hudead := hu.dispState_eq.trans hdead
    have hgone : u.TransmitKept (u.afterEvent rest) := .of_eq rfl rfl
    refine hu.trans (hgone.trans (Event.step_transmitKept hstep hne ?_ ?_))
    · simp [Event.takenBy_dispatcher_iff, hudead]
    · simp [Event.takenBy_pulseGen_iff, hudead]
  exact ⟨hkept.dispState_eq.trans hdead, hkept.txCur_eq, hkept.toggle_eq, hkept.txPopCount_eq,
    hkept.txDoneCount_eq, hkept.txOut_eq, hkept.txq_prefix⟩

/-! ### The order of the requests (R137, R139) -/

/-- The toggle bit after the dispatch of the requests, from `tg` on (44 R124). -/
def toggleAfter : Bool → List Word → Bool
  | tg, [] => tg
  | tg, w :: rest => toggleAfter (if isNecRequest w then tg else !tg) rest

theorem toggleAfter_append (tg : Bool) (us vs : List Word) :
    toggleAfter tg (us ++ vs) = toggleAfter (toggleAfter tg us) vs := by
  induction us generalizing tg with
  | nil => rfl
  | cons u us ih => exact ih _

theorem encodeRequests_append (tg : Bool) (us vs : List Word) :
    encodeRequests tg (us ++ vs) = encodeRequests tg us ++ encodeRequests (toggleAfter tg us) vs := by
  induction us generalizing tg with
  | nil => rfl
  | cons u us ih => exact congrArg (encodeRequest u tg :: ·) (ih _)

/-- The requests `popped` are those dispatched so far, and all their trains have been played but the one in
playback or the one whose trigger failed. -/
structure State.Sent (popped : List Word) (s : State) : Prop where
  txPopCount_eq : s.tx.txPopCount = BitVec.ofNat 32 popped.length
  toggle_eq : s.tx.toggle = toggleAfter false popped
  ready : s.tx.dispState = .ready → s.ports.txOut = encodeRequests false popped
  busy : s.tx.dispState = .busy → s.ports.txOut ++ [s.tx.pulseTrain] = encodeRequests false popped
  dead : s.tx.dispState = .dead → s.ports.txOut = (encodeRequests false popped).dropLast

theorem State.powerOn_sent (cfg : Config) (clk : Nat) (buf : Vector Timestamp edgeBufSlots) (env : Environment) :
    (State.powerOn cfg clk buf env).Sent [] := ⟨rfl, rfl, fun _ => rfl, nofun, nofun⟩

section

variable {s t : State} {popped : List Word} (h : s.Sent popped)
include h

theorem State.Sent.of_transmitKept (hkept : s.TransmitKept t) : t.Sent popped := by
  obtain ⟨hstate, htrain, -, htoggle, hpop, -, hout, -⟩ := hkept
  refine ⟨hpop.trans h.txPopCount_eq, htoggle.trans h.toggle_eq, ?_, ?_, ?_⟩
  · exact fun hready => hout.trans (h.ready (hstate ▸ hready))
  · rw [hout, htrain, hstate]
    exact h.busy
  · exact fun hdead => hout.trans (h.dead (hstate ▸ hdead))

theorem State.Sent.txOut_prefix : s.ports.txOut <+: encodeRequests false popped := by
  cases hstate : s.tx.dispState with
  | ready => exact h.ready hstate ▸ List.prefix_rfl
  | busy => exact h.busy hstate ▸ List.prefix_append _ _
  | dead => exact h.dead hstate ▸ List.dropLast_prefix _

/-- The head's train is the next of the popped requests' trains, played or not. -/
theorem State.Sent.dispatch {w : Word} {q : List Word} (hready : s.tx.dispState = .ready)
    (hq : s.tx.txq = w :: q) (o : Trigger) : (s.takeDispatch o).Sent (popped ++ [w]) := by
  have htrains : encodeRequests false (popped ++ [w]) = s.ports.txOut ++ [encodeRequest w s.tx.toggle] := by
    rw [encodeRequests_append, h.toggle_eq, h.ready hready]
    rfl
  have htoggle : (s.takeDispatch o).tx.toggle = toggleAfter false (popped ++ [w]) := by
    rw [State.takeDispatch_toggle hq, toggleAfter_append, h.toggle_eq]
    cases hw : isNecRequest w <;> simp [toggleAfter, hw]
  have hpop : s.tx.txPopCount + 1 = BitVec.ofNat 32 (popped ++ [w]).length := by
    rw [h.txPopCount_eq, List.length_append, BitVec.ofNat_add]
    rfl
  rcases s.takeDispatch_cases o w q hq with ⟨-, e⟩ | ⟨-, e⟩
  · exact ⟨by simpa [e] using hpop, htoggle, by simp [e], by simp [e, htrains], by simp [e]⟩
  · exact ⟨by simpa [e] using hpop, htoggle, by simp [e], by simp [e], by simp [e, htrains]⟩

theorem State.Sent.finish (hbusy : s.tx.dispState = .busy) : s.takePlayDone.Sent popped :=
  ⟨h.txPopCount_eq, h.toggle_eq, fun _ => h.busy hbusy, nofun, nofun⟩

end

/-! ### What an event accepts (R129 to R131) -/

section

variable {s t : State}

theorem State.acceptedBy_of_ne_host {e : Event} (h : e ≠ .host) : s.acceptedBy e = [] := by
  cases e with
  | host => exact absurd rfl h
  | _ => rfl

theorem State.acceptedBy_host_of_write {addr n : Nat} {w : Word} {more : List HostAccess}
    (h : s.env.host = .write addr n w :: more) :
    s.acceptedBy .host = if windowWritesCmd s.cfg addr n && isRequestWord w && s.hasRoom then [w] else [] := by
  simp [State.acceptedBy, h]

theorem State.acceptedBy_of_full (h : s.hasRoom = false) (e : Event) : s.acceptedBy e = [] := by
  unfold State.acceptedBy
  split <;> simp [h]

/-- An access that waits is not accepted: the FIFO is full. -/
theorem State.acceptedBy_of_waiting (h : s.hostEnabled = false) : s.acceptedBy .host = [] := by
  cases hhost : s.env.host with
  | nil => simp [State.acceptedBy, hhost]
  | cons a more =>
    have hheld : s.accessHeld a = true := by simpa [State.hostEnabled, hhost] using h
    exact State.acceptedBy_of_full (State.eq_write_of_accessHeld hheld).1 .host

/-- A command adds its word to the FIFO when it is a request's and there is room. -/
theorem exec_txq {w : Word} {i : Instr} (hd : decode w = .command i) (h : exec i s = .next t) :
    t.tx.txq = s.tx.txq ++ if isRequestWord w && s.hasRoom then [w] else [] := by
  rcases exec_cases i s with ⟨m, mode, rfl, -, e⟩ | ⟨m, rfl, -, e⟩ | ⟨hi, -, hroom, e⟩ | ⟨-, -, hroom, e⟩
  all_goals rw [e] at h; cases h
  · simp [isRequestWord, hd]
  · simp [isRequestWord, hd]
  · simp [isRequestWord_of_decode hd hi, encode_of_decode_request hd hi, hroom]
  · simp [hroom]

/-- Of the accesses that HOST performs only an ENQ word's write to CMD adds to the FIFO. -/
theorem State.takeHost_txq (h : s.takeHost = .next t) : t.tx.txq = s.tx.txq ++ s.acceptedBy .host := by
  rcases s.takeHost_cases with ⟨hhost, e⟩ | ⟨addr, n, more, v, hhost, -, e⟩ | ⟨addr, n, more, hhost, -, e⟩ |
    ⟨addr, n, w, more, hhost, hcmd, e⟩ | ⟨w, more, why, hhost, hd, e⟩ | ⟨w, more, i, hhost, hd, e⟩
  all_goals rw [e] at h
  case inr.inr.inr.inr.inr =>
    rw [State.acceptedBy_host_of_write hhost, (windowWritesCmd_iff _ _ _).2 ⟨rfl, rfl⟩]
    exact exec_txq (s := s.answer .done) hd h
  all_goals cases h
  · simp [State.acceptedBy, hhost]
  · simp [State.acceptedBy, hhost]
  · simp [State.acceptedBy, hhost]
  · have hwindow : windowWritesCmd s.cfg addr n = false := by
      rwa [← windowWritesCmd_iff, Bool.not_eq_true] at hcmd
    simp [State.acceptedBy_host_of_write hhost, hwindow]
  · simp [State.acceptedBy_host_of_write hhost, isRequestWord, hd]

theorem Event.step_host_txq (h : Event.host.step s = .next t) : t.tx.txq = s.tx.txq ++ s.acceptedBy .host := by
  cases he : Event.enabled s .host with
  | false =>
    rw [Event.step_of_disabled he] at h
    cases h
    rw [State.acceptedBy_of_waiting he, List.append_nil]
  | true =>
    rw [Event.step_of_enabled he] at h
    exact State.takeHost_txq h

/-- Every event but RESET and an enabled DISPATCH adds to the FIFO what it accepts. -/
theorem Event.step_txq {e : Event} (h : e.step s = .next t) (hreset : e ≠ .reset)
    (hdisp : ¬e.TakenBy .dispatcher s) : t.tx.txq = s.tx.txq ++ s.acceptedBy e := by
  by_cases hhost : e = .host
  · subst hhost
    exact Event.step_host_txq h
  rw [State.acceptedBy_of_ne_host hhost, List.append_nil]
  cases he : e.enabled s with
  | false =>
    rw [Event.step_of_disabled he] at h
    cases h
    rfl
  | true =>
    rw [Event.step_of_enabled he] at h
    cases e with
    | host => exact absurd rfl hhost
    | idleFire =>
      cases h
      rcases s.takeIdleFire_cases with ⟨m, -, e⟩ | ⟨err, -, e⟩ <;> simp [e]
    | dispatch o => exact absurd ⟨rfl, he⟩ hdisp
    | reset => exact absurd rfl hreset
    | edge x | playDone =>
      cases h
      rfl

/-- The requests popped and those queued are, before and after an event, the accepted ones in order. -/
theorem State.Sent.step {popped : List Word} {e : Event} (hs : s.Sent popped) (hreset : e ≠ .reset)
    (h : e.step s = .next t) :
    ∃ popped', t.Sent popped' ∧ popped' ++ t.tx.txq = popped ++ s.tx.txq ++ s.acceptedBy e := by
  by_cases hdisp : e.TakenBy .dispatcher s
  · obtain ⟨⟨o, rfl⟩, hready, w, q, hq⟩ := Event.takenBy_dispatcher_iff.1 hdisp
    rw [Event.step_of_enabled hdisp.2] at h
    cases h
    refine ⟨popped ++ [w], hs.dispatch hready hq o, ?_⟩
    rw [State.acceptedBy_of_ne_host (by simp), (State.takeDispatch_pops hq o).1, hq]
    simp
  have htxq := Event.step_txq h hreset hdisp
  refine ⟨popped, ?_, by rw [htxq, List.append_assoc]⟩
  by_cases hplay : e.TakenBy .pulseGen s
  · obtain ⟨rfl, hbusy⟩ := Event.takenBy_pulseGen_iff.1 hplay
    exact Event.step_playDone hbusy h ▸ hs.finish hbusy
  · exact hs.of_transmitKept (Event.step_transmitKept h hreset hdisp hplay)

end

/-- Settles O45: popped and queued requests stay the accepted ones in order (`State.Sent.step`) along the run. -/
theorem requestsAreSentInOrder : Obligations.RequestsAreSentInOrder := by
  intro cfg clk buf env n s hreset hrun
  obtain ⟨popped, hsent, haccepted⟩ : ∃ popped, s.Sent popped ∧
      popped ++ s.tx.txq = [] ++ acceptedIn n (State.powerOn cfg clk buf env) := by
    refine runSteps_accepted_induction
      (P := fun acc u => ∃ popped, u.Sent popped ∧ popped ++ u.tx.txq = acc)
      ?_ ⟨[], State.powerOn_sent cfg clk buf env, rfl⟩ hreset hrun
    rintro _ u v e rest ⟨popped, hu, rfl⟩ hne hstep
    exact (hu.of_transmitKept (.of_eq rfl rfl : u.TransmitKept (u.afterEvent rest))).step hne hstep
  rw [List.nil_append] at haccepted
  refine ⟨popped, haccepted.symm, hsent.txPopCount_eq, hsent.ready, hsent.busy, hsent.dead, ?_⟩
  rw [← haccepted, encodeRequests_append]
  exact hsent.txOut_prefix.trans (List.prefix_append _ _)

/-! ### The two sides are independent (R143) -/

/-- A step of DISPATCHER or of PULSEGEN. -/
abbrev Event.OfTransmit (e : Event) : Prop := (∃ o, e = .dispatch o) ∨ e = .playDone

/-- A step of RXENV or of RXTIMER. -/
abbrev Event.OfReceive (e : Event) : Prop := (∃ x, e = .edge x) ∨ e = .idleFire

theorem Event.side_cases {e : Event} (h : e ≠ .host) : e.OfTransmit ∨ e.OfReceive ∨ e = .reset := by
  cases e <;> simp_all [Event.OfTransmit, Event.OfReceive]

/-- The transmit side written, and its entries appended to the ports. -/
def State.writeTransmit (tx : Transmitter) (trains : List PulseTrain) (entries : List LogEntry) (s : State) : State :=
  { s with
    tx := tx
    ports := { s.ports with txOut := s.ports.txOut ++ trains, logOut := s.ports.logOut ++ entries } }

/-- The receive side written, and its entries appended to the ports. -/
def State.writeReceive (rx : Receiver) (msgs : List Message) (entries : List LogEntry) (s : State) : State :=
  { s with
    rx := rx
    ports := { s.ports with rxOut := s.ports.rxOut ++ msgs, logOut := s.ports.logOut ++ entries } }

@[simp] theorem State.writeTransmit_self (s : State) : s.writeTransmit s.tx [] [] = s := by
  simp [State.writeTransmit]

@[simp] theorem State.writeReceive_self (s : State) : s.writeReceive s.rx [] [] = s := by
  simp [State.writeReceive]

section

variable {s s' t t' : State}

/-- Two states that enable an event alike: it is taken in both, or leaves both. -/
theorem Event.step_both_cases {e : Event} (henabled : e.enabled s = e.enabled s') (h : e.step s = .next t)
    (h' : e.step s' = .next t') :
    (t = s ∧ t' = s') ∨ (e.enabled s = true ∧ e.take s = .next t ∧ e.take s' = .next t') := by
  cases hon : e.enabled s with
  | false =>
    rw [Event.step_of_disabled hon] at h
    rw [Event.step_of_disabled (henabled ▸ hon)] at h'
    cases h
    cases h'
    exact .inl ⟨rfl, rfl⟩
  | true =>
    rw [Event.step_of_enabled hon] at h
    rw [Event.step_of_enabled (henabled ▸ hon)] at h'
    exact .inr ⟨rfl, h, h'⟩

theorem State.takeDispatch_eq_writeTransmit (htx : s.tx = s'.tx) (o : Trigger) : ∃ tx entries,
    s.takeDispatch o = s.writeTransmit tx [] entries ∧ s'.takeDispatch o = s'.writeTransmit tx [] entries := by
  cases hq : s.tx.txq with
  | nil => exact ⟨s.tx, [], by simp [State.takeDispatch, hq], by simp [State.takeDispatch, htx, htx ▸ hq]⟩
  | cons w q =>
    cases o with
    | ok =>
      refine ⟨(s.tx.pop w q (!isNecRequest w)).start (encodeRequest w s.tx.toggle), [], ?_, ?_⟩
      all_goals simp [State.takeDispatch, ← htx, hq, State.trigger, State.writeTransmit]
    | fail =>
      refine ⟨{ s.tx.pop w q (!isNecRequest w) with dispState := .dead }, [.queueDispatchFailure w], ?_, ?_⟩
      all_goals simp [State.takeDispatch, ← htx, hq, State.trigger, State.raise, State.writeTransmit]

/-- A step of the transmit side writes that side and its ports only, and what it writes is that side's alone. -/
theorem Event.OfTransmit.step {e : Event} (he : e.OfTransmit) (htx : s.tx = s'.tx) (h : e.step s = .next t)
    (h' : e.step s' = .next t') : ∃ tx trains entries,
      t = s.writeTransmit tx trains entries ∧ t' = s'.writeTransmit tx trains entries := by
  have henabled : e.enabled s = e.enabled s' := by
    rcases he with ⟨o, rfl⟩ | rfl <;> simp [Event.enabled, htx]
  rcases Event.step_both_cases henabled h h' with ⟨rfl, rfl⟩ | ⟨-, h, h'⟩
  · exact ⟨t.tx, [], [], by simp, by simp [htx]⟩
  rcases he with ⟨o, rfl⟩ | rfl
  all_goals cases h; cases h'
  · obtain ⟨tx, entries, e, e'⟩ := State.takeDispatch_eq_writeTransmit htx o
    exact ⟨tx, [], entries, e, e'⟩
  · refine ⟨s.tx.finish, [s.tx.pulseTrain], [], ?_, ?_⟩
    all_goals simp [State.takePlayDone, State.writeTransmit, ← htx]

theorem State.takeIdleFire_eq_writeReceive (hcfg : s.cfg = s'.cfg) (hrx : s.rx = s'.rx) : ∃ rx msgs entries,
    s.takeIdleFire = s.writeReceive rx msgs entries ∧ s'.takeIdleFire = s'.writeReceive rx msgs entries := by
  simp only [State.takeIdleFire, ← hcfg, ← hrx]
  cases s.rx.decodeFrame s.cfg with
  | ok msg =>
    refine ⟨(State.deliver msg { s with rx := (s.rx.atTime s.rx.deadline).disarm }).rx, [msg], [], ?_, ?_⟩
    all_goals simp [State.recordDecode, State.deliver, State.writeReceive, hcfg]
  | fail err =>
    refine ⟨(State.raise (.decode err) { s with rx := (s.rx.atTime s.rx.deadline).disarm }).rx, [],
      [.decode err], ?_, ?_⟩
    all_goals simp [State.recordDecode, State.raise, State.writeReceive, hcfg]

/-- A step of the receive side writes that side and its ports only, and what it writes is that side's and the
parameters' alone. -/
theorem Event.OfReceive.step {e : Event} (he : e.OfReceive) (hcfg : s.cfg = s'.cfg) (hrx : s.rx = s'.rx)
    (h : e.step s = .next t) (h' : e.step s' = .next t') : ∃ rx msgs entries,
      t = s.writeReceive rx msgs entries ∧ t' = s'.writeReceive rx msgs entries := by
  have henabled : e.enabled s = e.enabled s' := by
    rcases he with ⟨x, rfl⟩ | rfl <;> simp [Event.enabled, hrx]
  rcases Event.step_both_cases henabled h h' with ⟨rfl, rfl⟩ | ⟨-, h, h'⟩
  · exact ⟨t.rx, [], [], by simp, by simp [hrx]⟩
  rcases he with ⟨x, rfl⟩ | rfl
  all_goals cases h; cases h'
  · refine ⟨s.rx.edge s.cfg x, [], [], ?_, ?_⟩
    all_goals simp [State.takeEdge, State.writeReceive, ← hcfg, ← hrx]
  · exact State.takeIdleFire_eq_writeReceive hcfg hrx

/-- SETMODE writes the receive side and the command record only, and what it writes to that side is its alone. -/
theorem exec_setmode_both {m : BitVec 2} (hrx : s.rx = s'.rx) (h : exec (.setmode m) s = .next t)
    (h' : exec (.setmode m) s' = .next t') :
    ∃ rx cmd cmd', t = { s with rx := rx, cmd := cmd } ∧ t' = { s' with rx := rx, cmd := cmd' } := by
  change execSetmode m s = _ at h
  change execSetmode m s' = _ at h'
  rw [execSetmode] at h h'
  cases hm : ReceiveMode.ofBits m <;> rw [hm] at h h' <;> cases h <;> cases h'
  · exact ⟨s.rx, _, _, rfl, by rw [hrx]; rfl⟩
  · exact ⟨_, _, _, rfl, by rw [hrx]; rfl⟩

/-- ENQNEC and ENQRC6 write the transmit side and the command record only, and what they write to that side is its
and the parameters' alone. -/
theorem exec_request_both {i : Instr} (hi : ∀ m, i ≠ .setmode m) (hcfg : s.cfg = s'.cfg) (htx : s.tx = s'.tx)
    (h : exec i s = .next t) (h' : exec i s' = .next t') :
    ∃ tx cmd cmd', t = { s with tx := tx, cmd := cmd } ∧ t' = { s' with tx := tx, cmd := cmd' } := by
  have hroom : s.hasRoom = s'.hasRoom := by rw [State.hasRoom, State.hasRoom, hcfg, htx]
  rw [exec_request hi, State.requestOrWait] at h h'
  rw [← hroom] at h'
  split_ifs at h h' <;> cases h <;> cases h'
  · exact ⟨_, _, _, rfl, by rw [htx]; rfl⟩
  · exact ⟨_, _, _, rfl, by rw [htx]⟩

theorem Event.OfTransmit.rx_eq {e : Event} (he : e.OfTransmit) (h : e.step s = .next t) : t.rx = s.rx := by
  obtain ⟨_, _, _, rfl, -⟩ := he.step rfl h h
  rfl

theorem Event.OfReceive.tx_eq {e : Event} (he : e.OfReceive) (h : e.step s = .next t) : t.tx = s.tx := by
  obtain ⟨_, _, _, rfl, -⟩ := he.step rfl rfl h h
  rfl

theorem exec_setmode_frame {m : BitVec 2} (h : exec (.setmode m) s = .next t) : t.tx = s.tx ∧ t.ports = s.ports := by
  obtain ⟨_, _, _, rfl, -⟩ := exec_setmode_both rfl h h
  exact ⟨rfl, rfl⟩

theorem exec_request_frame {i : Instr} (hi : ∀ m, i ≠ .setmode m) (h : exec i s = .next t) :
    t.rx = s.rx ∧ t.ports = s.ports := by
  obtain ⟨_, _, _, rfl, -⟩ := exec_request_both hi rfl rfl h h
  exact ⟨rfl, rfl⟩

end

/-- Settles O47: the events and commands of each side by `Event.OfTransmit.step`, `Event.OfReceive.step`,
`exec_setmode_both` and `exec_request_both`. What RESET makes of a side depends on that side alone. -/
theorem receiveAndTransmitAreIndependent : Obligations.ReceiveAndTransmitAreIndependent := by
  refine ⟨fun _ _ _ => Event.OfTransmit.rx_eq, fun _ _ _ => Event.OfReceive.tx_eq, ?commandFrame, ?transmitOwn,
    ?receiveOwn, ?commandOwn, ?transmitPorts, ?receivePorts, ?commandPorts⟩
  case commandFrame =>
    refine fun s t i h => ⟨?_, fun hi => (exec_request_frame hi h).1⟩
    rintro ⟨m, rfl⟩
    exact (exec_setmode_frame h).1
  case transmitOwn =>
    intro s s' t t' e hne _ htx h h'
    rcases Event.side_cases hne with he | he | rfl
    · obtain ⟨_, _, _, rfl, rfl⟩ := he.step htx h h'
      rfl
    · rw [he.tx_eq h, he.tx_eq h', htx]
    · cases h
      cases h'
      rfl
  case receiveOwn =>
    intro s s' t t' e hne hcfg hrx h h'
    rcases Event.side_cases hne with he | he | rfl
    · rw [he.rx_eq h, he.rx_eq h', hrx]
    · obtain ⟨_, _, _, rfl, rfl⟩ := he.step hcfg hrx h h'
      rfl
    · cases h
      cases h'
      simp [hrx]
  case commandOwn =>
    intro s s' t t' i hcfg h h'
    by_cases hi : ∃ m, i = .setmode m
    · obtain ⟨m, rfl⟩ := hi
      refine ⟨fun htx => by rw [(exec_setmode_frame h).1, (exec_setmode_frame h').1, htx], fun hrx => ?_⟩
      obtain ⟨_, _, _, rfl, rfl⟩ := exec_setmode_both hrx h h'
      rfl
    · rw [not_exists] at hi
      refine ⟨fun htx => ?_, fun hrx => by rw [(exec_request_frame hi h).1, (exec_request_frame hi h').1, hrx]⟩
      obtain ⟨_, _, _, rfl, rfl⟩ := exec_request_both hi hcfg htx h h'
      rfl
  case transmitPorts =>
    intro s s' t t' e he _ htx h h'
    obtain ⟨_, trains, entries, rfl, rfl⟩ := Event.OfTransmit.step he htx h h'
    exact ⟨rfl, rfl, ⟨trains, rfl, rfl⟩, entries, rfl, rfl⟩
  case receivePorts =>
    intro s s' t t' e he hcfg hrx h h'
    obtain ⟨_, msgs, entries, rfl, rfl⟩ := Event.OfReceive.step he hcfg hrx h h'
    exact ⟨rfl, rfl, ⟨msgs, rfl, rfl⟩, entries, rfl, rfl⟩
  case commandPorts =>
    intro s t i h
    by_cases hi : ∃ m, i = .setmode m
    · obtain ⟨m, rfl⟩ := hi
      exact (exec_setmode_frame h).2
    · rw [not_exists] at hi
      exact (exec_request_frame hi h).2

end Sys2Proof.Machine

end

/-! # Exceptions (60_exceptions.md R145 to R155)

Every error the block raises is recorded in a next state, so no step ends in a fault or a refusal: said once for each
layer of the step, the commands, HOST's access, an event. -/

section

namespace Sys2Proof.Machine

/-- A mode armed, a bad SETMODE raised, a request accepted, and a request that waits: each is a next state. -/
theorem exec_answers_next (i : Instr) (s : State) : ∃ t, exec i s = .next t := by
  rcases exec_cases i s with ⟨-, mode, -, -, e⟩ | ⟨-, -, -, e⟩ | ⟨-, -, -, e⟩ | ⟨-, -, -, e⟩
  · exact ⟨s.setReceiveMode mode, e⟩
  · exact ⟨s.raise .illegalCommand, e⟩
  · exact ⟨s.acceptRequest (encode i), e⟩
  · exact ⟨s, e⟩

/-- A BusError and an illegal word are answered and logged, and the block goes on (R148, R149). -/
theorem State.takeHost_answers_next (s : State) : ∃ t, s.takeHost = .next t := by
  rcases s.takeHost_cases with ⟨-, e⟩ | ⟨-, -, -, v, -, -, e⟩ | ⟨addr, n, -, -, -, e⟩ |
    ⟨addr, n, -, -, -, -, e⟩ | ⟨-, -, -, -, -, e⟩ | ⟨-, -, i, -, -, e⟩
  · exact ⟨s, e⟩
  · exact ⟨s.answer (.value v), e⟩
  · exact ⟨s.answer (.busError addr n .read), e⟩
  · exact ⟨s.answer (.busError addr n .write), e⟩
  · exact ⟨(s.answer .done).raise .illegalCommand, e⟩
  · rw [e]
    exact exec_answers_next i (s.answer .done)

/-- HOST's access is the only event that could answer anything else: the meanings of the others are plain states. -/
theorem Event.take_answers_next (e : Event) (s : State) : ∃ t, e.take s = .next t := by
  cases e with
  | host => exact s.takeHost_answers_next
  | edge t => exact ⟨s.takeEdge t, rfl⟩
  | idleFire => exact ⟨s.takeIdleFire, rfl⟩
  | dispatch o => exact ⟨s.takeDispatch o, rfl⟩
  | playDone => exact ⟨s.takePlayDone, rfl⟩
  | reset => exact ⟨s.applyReset, rfl⟩

theorem Event.step_answers_next (e : Event) (s : State) : ∃ t, e.step s = .next t := by
  cases he : e.enabled s with
  | false => exact ⟨s, Event.step_of_disabled he⟩
  | true =>
    rw [Event.step_of_enabled he]
    exact e.take_answers_next s

/-- Settles O52: an empty schedule leaves the state, and the event at the head of any other has a next state. -/
theorem everyStepAnswersNext : Obligations.EveryStepAnswersNext := by
  intro s
  cases hsched : s.env.sched with
  | nil => exact ⟨s, by simp [step, State.stepSchedule, hsched]⟩
  | cons e rest =>
    rw [step_of_sched hsched]
    exact e.step_answers_next (s.afterEvent rest)

end Sys2Proof.Machine

end

/-! # RESET, power-on and the parameters (70_reset_and_hazards.md R164 to R168)

RESET is always enabled, so the step on it is `State.applyReset` itself; after it the FIFO is empty and every register
holds 0. The power-on state is one that RESET leaves as it is, so what holds after RESET holds at power-on. -/

section

namespace Sys2Proof.Machine

/-! ### RESET (R164) -/

theorem step_reset {s : State} {rest : List Event} (hsched : s.env.sched = .reset :: rest) :
    step s = .next (s.afterEvent rest).applyReset := by
  rw [step_of_sched hsched, Event.step_of_enabled (s := s.afterEvent rest) (e := .reset) rfl]
  rfl

/-- After RESET STATUS reads IDLE, READY, no flag and an empty FIFO, whose packed word is 0 (10 R38). -/
theorem State.applyReset_status (s : State) : s.applyReset.status = 0 := by
  simp [State.status, Receiver.powerOn, Transmitter.powerOn, CommandStatus.powerOn, Transmitter.txBusy,
    Transmitter.txDead, ReceiveMode.bits]

theorem State.applyReset_readReg {s : State} {r : Reg} {v : Word} (h : s.applyReset.readReg r = some v) : v = 0 := by
  cases r with
  | cmd => cases h
  | status => rw [← Option.some.inj h, s.applyReset_status]
  | _ => exact (Option.some.inj h).symm

/-- The FIFO that RESET emptied has room for any write (45 R131). -/
theorem State.applyReset_accessHeld {s : State} (hdepth : 0 < s.cfg.txqDepth) (a : HostAccess) :
    s.applyReset.accessHeld a = false := by
  have hroom : s.applyReset.hasRoom = true := State.hasRoom_iff.2 hdepth
  rw [← Bool.not_eq_true]
  intro hheld
  obtain ⟨hfull, -⟩ := State.eq_write_of_accessHeld hheld
  exact absurd hroom (Bool.eq_false_iff.1 hfull)

/-- Settles O48: the step is `State.applyReset`, and the two last clauses are its registers and its empty FIFO. -/
theorem resetSetsTheListedValues : Obligations.ResetSetsTheListedValues := by
  intro s rest hsched
  refine ⟨(s.afterEvent rest).applyReset, step_reset hsched, rfl, ?registers, ?heldWrite⟩
  case registers =>
    intro r v hread
    exact State.applyReset_readReg hread
  case heldWrite =>
    intro hdepth
    exact ⟨rfl, State.applyReset_accessHeld hdepth⟩

/-! ### Power-on (R167) -/

theorem State.powerOn_applyReset (cfg : Config) (clk : Nat) (buf : Vector Timestamp edgeBufSlots) (env : Environment) :
    (State.powerOn cfg clk buf env).applyReset = State.powerOn cfg clk buf env := rfl

/-- Settles O49: what RESET leaves of the registers is what power-on shows, since power-on is a state after RESET. -/
theorem powerOnStateIsTheResetState : Obligations.PowerOnStateIsTheResetState := by
  intro cfg clk buf env
  have hfixed := State.powerOn_applyReset cfg clk buf env
  refine ⟨hfixed, rfl, ?registers, fun hcfg => State.powerOn_inv hcfg clk buf env⟩
  case registers =>
    intro r v hread
    rw [← hfixed] at hread
    exact State.applyReset_readReg hread

/-! ### The parameters (R168) -/

/-- No way in which a step writes the block writes the parameters, RESET's included. -/
theorem State.BlockStep.cfg_eq {s t : State} (h : s.BlockStep t) : t.cfg = s.cfg := by
  cases h <;> rfl

/-- Settles O54: each step leaves the parameters, so a run does. -/
theorem parametersNeverChange : Obligations.ParametersNeverChange := by
  intro n s t hrun
  exact runSteps_induction (P := fun u => u.cfg = s.cfg)
    (fun hu hstep => (step_blockStep hstep).cfg_eq.trans hu) rfl hrun

end Sys2Proof.Machine

end

/-! # The opcode table (spec/opcode_table.json, 30_encoding.md R62 to R66)

A row's mask is all ones on OP and on the row's zero field, so that a word under the row has the pattern's bits there
(`OpcodeRow.extractLsb'_of_covers`), which are what the decoder checks; and it is zero on the operands, so that a
command's word is under its row whatever they are. -/

section

namespace Sys2Proof.Machine

theorem OpcodeRow.covers_iff {r : OpcodeRow} {w : Word} : r.covers w = true ↔ w &&& r.mask = r.pattern :=
  beq_iff_eq

theorem OpcodeRow.extractLsb'_of_covers {r : OpcodeRow} {w : Word} (h : r.covers w = true) (i n : Nat)
    (hones : r.mask.extractLsb' i n = BitVec.allOnes n) : w.extractLsb' i n = r.pattern.extractLsb' i n := by
  calc w.extractLsb' i n = w.extractLsb' i n &&& r.mask.extractLsb' i n := by rw [hones, BitVec.and_allOnes]
    _ = (w &&& r.mask).extractLsb' i n := BitVec.extractLsb'_and.symm
    _ = r.pattern.extractLsb' i n := by rw [OpcodeRow.covers_iff.1 h]

/-! ### A command's word is under its row -/

/-- A field under zero mask bits is cleared, whatever its value. -/
theorem append_and_append_zero {v n : Nat} (x m : BitVec v) (y : BitVec n) :
    (x ++ y) &&& (m ++ 0#n) = (x &&& m) ++ 0#n := by
  rw [BitVec.and_append, BitVec.and_zero]

theorem encode_setmode_and_mask (mode : BitVec 2) :
    encode (.setmode mode) &&& 0xFFFFFFFC#32 = 0x10000000#32 :=
  append_and_append_zero (0x1#4 ++ 0#26) 0x3FFFFFFF#30 mode

theorem encode_enqnec_and_mask (dev cmd : Byte) :
    encode (.enqnec dev cmd) &&& 0xFFFF0000#32 = 0x20000000#32 := by
  calc encode (.enqnec dev cmd) &&& 0xFFFF0000#32
      = (0x2#4 ++ 0#12 ++ dev &&& (0xFFFF#16 ++ 0#8)) ++ 0#8 :=
      append_and_append_zero (0x2#4 ++ 0#12 ++ dev) (0xFFFF#16 ++ 0#8) cmd
    _ = 0x20000000#32 := congrArg (· ++ 0#8) (append_and_append_zero (0x2#4 ++ 0#12) 0xFFFF#16 dev)

theorem encode_enqrc6_and_mask (mode : BitVec 3) (ctrl info : Byte) :
    encode (.enqrc6 mode ctrl info) &&& 0xFFF80000#32 = 0x30000000#32 := by
  calc encode (.enqrc6 mode ctrl info) &&& 0xFFF80000#32
      = (0x3#4 ++ 0#9 ++ mode ++ ctrl &&& (0x1FFF#13 ++ 0#3 ++ 0#8)) ++ 0#8 :=
      append_and_append_zero (0x3#4 ++ 0#9 ++ mode ++ ctrl) (0x1FFF#13 ++ 0#3 ++ 0#8) info
    _ = ((0x3#4 ++ 0#9 ++ mode &&& (0x1FFF#13 ++ 0#3)) ++ 0#8) ++ 0#8 :=
      congrArg (· ++ 0#8) (append_and_append_zero (0x3#4 ++ 0#9 ++ mode) (0x1FFF#13 ++ 0#3) ctrl)
    _ = 0x30000000#32 :=
      congrArg (· ++ 0#8 ++ 0#8) (append_and_append_zero (0x3#4 ++ 0#9) 0x1FFF#13 mode)

theorem exists_row_covers_encode (i : Instr) :
    ∃ r ∈ opcodeTable, r.mnemonic = i.mnemonic ∧ r.covers (encode i) = true := by
  cases i with
  | setmode mode =>
    exact ⟨⟨"SETMODE", 0x10000000#32, 0xFFFFFFFC#32⟩, by decide, rfl,
      OpcodeRow.covers_iff.2 (encode_setmode_and_mask mode)⟩
  | enqnec dev cmd =>
    exact ⟨⟨"ENQNEC", 0x20000000#32, 0xFFFF0000#32⟩, by decide, rfl,
      OpcodeRow.covers_iff.2 (encode_enqnec_and_mask dev cmd)⟩
  | enqrc6 mode ctrl info =>
    exact ⟨⟨"ENQRC6", 0x30000000#32, 0xFFF80000#32⟩, by decide, rfl,
      OpcodeRow.covers_iff.2 (encode_enqrc6_and_mask mode ctrl info)⟩

/-! ### A word under a row -/

/-- OP = 1, bits 27:2 zero and MODE = 3 are all the bits of a word (R63). -/
theorem eq_setmodeThree_of_fields {w : Word} (hop : opField w = 0x1#4) (hzero : w.extractLsb' 2 26 = 0)
    (hthree : w.extractLsb' 0 2 = 3) : w = 0x10000003#32 := by
  have hop' : w.toNat / 2 ^ 28 = 1 := opField_eq_iff_toNat.1 hop
  have hzero' : w.toNat / 2 ^ 2 % 2 ^ 26 = 0 := extractLsb'_eq_iff_toNat.1 hzero
  have hthree' : w.toNat / 2 ^ 0 % 2 ^ 2 = 3 := extractLsb'_eq_iff_toNat.1 hthree
  apply BitVec.eq_of_toNat_eq
  rw [BitVec.toNat_ofNat]
  omega

theorem decode_of_covers {r : OpcodeRow} {w : Word} (hr : r ∈ opcodeTable) (h : r.covers w = true) :
    (∃ i, decode w = .command i ∧ i.mnemonic = r.mnemonic) ∨ w = 0x10000003#32 := by
  have hfield := OpcodeRow.extractLsb'_of_covers h
  simp only [opcodeTable, List.mem_cons, List.not_mem_nil, or_false] at hr
  obtain rfl | rfl | rfl := hr
  case inl =>
    have hop : opField w = 0x1#4 := hfield 28 4 rfl
    have hzero : w.extractLsb' 2 26 = 0 := hfield 2 26 rfl
    by_cases hthree : w.extractLsb' 0 2 = 3
    · exact .inr (eq_setmodeThree_of_fields hop hzero hthree)
    · exact .inl ⟨_, decode_eq_setmode_iff.2 ⟨hop, hzero, rfl, hthree⟩, rfl⟩
  case inr.inl =>
    have hop : opField w = 0x2#4 := hfield 28 4 rfl
    have hzero : w.extractLsb' 16 12 = 0 := hfield 16 12 rfl
    exact .inl ⟨.enqnec (w.extractLsb' 8 8) (w.extractLsb' 0 8), by simp [decode, hop, hzero], rfl⟩
  case inr.inr =>
    have hop : opField w = 0x3#4 := hfield 28 4 rfl
    have hzero : w.extractLsb' 19 9 = 0 := hfield 19 9 rfl
    exact .inl ⟨.enqrc6 (w.extractLsb' 16 3) (w.extractLsb' 8 8) (w.extractLsb' 0 8),
      by simp [decode, hop, hzero], rfl⟩

/-! ### No two rows share a word -/

theorem opcodeTable_mask_opField : ∀ r ∈ opcodeTable, opField r.mask = BitVec.allOnes 4 := by decide

theorem opcodeTable_pattern_opField_pairwise :
    opcodeTable.Pairwise fun a b => opField a.pattern ≠ opField b.pattern := by decide

/-- A word under a row has the row's OP (R62). -/
theorem opField_of_covers {r : OpcodeRow} {w : Word} (hr : r ∈ opcodeTable) (h : r.covers w = true) :
    opField w = opField r.pattern :=
  OpcodeRow.extractLsb'_of_covers h 28 4 (opcodeTable_mask_opField r hr)

theorem opcodeTable_pairwise_not_covers (w : Word) :
    opcodeTable.Pairwise fun a b => ¬(a.covers w = true ∧ b.covers w = true) := by
  refine opcodeTable_pattern_opField_pairwise.imp_of_mem fun ha hb hne hboth => hne ?_
  obtain ⟨hcovers_a, hcovers_b⟩ := hboth
  exact (opField_of_covers ha hcovers_a).symm.trans (opField_of_covers hb hcovers_b)

/-- Settles O4: a decoded word is its command's, which lies under the command's row; a word under a row has the
fields that the decoder checks; and the rows' OPs differ. -/
theorem opcodeTableAndDecoderAgree : Obligations.OpcodeTableAndDecoderAgree := by
  intro w
  refine ⟨fun i h => ?_, fun r hr h => decode_of_covers hr h, opcodeTable_pairwise_not_covers w⟩
  obtain ⟨-, rfl⟩ := decode_eq_command_iff.1 h
  exact exists_row_covers_encode i

/-- Settles O5, by running the decoder on each of the seven words. -/
theorem specWordsDecode : Obligations.SpecWordsDecode :=
  ⟨rfl, rfl, rfl, rfl, rfl, rfl, rfl⟩

end Sys2Proof.Machine

end
